-- ==== Sys2Proof/Word.lean ====
section
/-! DEFINITION. The word types of the machine (00_scope.md R3, R4; 30_encoding.md R62).
All values are unsigned; no operation of the machine is signed (R4). -/

namespace Sys2Proof

/-- An 8-bit value: a register, a timer, a byte of memory. -/
abbrev Byte := BitVec 8

/-- A 16-bit value: the program counter, the index register, a return address, an instruction word. -/
abbrev Word := BitVec 16

/-- A 12-bit address field `NNN` (R62). -/
abbrev Addr12 := BitVec 12

/-- A register index: field `X` or `Y` (R10: a 4-bit field never selects a register that does not exist). -/
abbrev Reg := Fin 16

end Sys2Proof
end

