-- ==== Sys2Proof/Syntax.lean ====
section
/-! DEFINITION. The instruction set as syntax: one constructor per row of spec/opcode_table.json (30_encoding.md
R65), the mnemonics of those rows, and the six formats of R61. -/

namespace Sys2Proof

/-- An instruction. Operands in the field order X, Y, N (R71); each field has exactly the width of R62. -/
inductive Instr where
  | cls
  | ret
  | jp (nnn : Addr12)
  | call (nnn : Addr12)
  | se (x : Reg) (nn : Byte)
  | sne (x : Reg) (nn : Byte)
  | ser (x y : Reg)
  | ld (x : Reg) (nn : Byte)
  | add (x : Reg) (nn : Byte)
  | mov (x y : Reg)
  | or (x y : Reg)
  | and (x y : Reg)
  | xor (x y : Reg)
  | addc (x y : Reg)
  | sub (x y : Reg)
  | shr (x y : Reg)
  | subn (x y : Reg)
  | shl (x y : Reg)
  | sner (x y : Reg)
  | ldi (nnn : Addr12)
  | jp0 (nnn : Addr12)
  | rnd (x : Reg) (nn : Byte)
  /-- `n` is the number of sprite rows, 0 to 15 (R63). -/
  | drw (x y : Reg) (n : Fin 16)
  | skp (x : Reg)
  | sknp (x : Reg)
  | lddt (x : Reg)
  | ldk (x : Reg)
  | stdt (x : Reg)
  | stst (x : Reg)
  | addi (x : Reg)
  | font (x : Reg)
  | bcd (x : Reg)
  /-- `x` is encoded but has no effect (R135). -/
  | stm (x : Reg)
  | ldm (x : Reg)
  deriving DecidableEq, Repr

/-- The mnemonics of R65, each naming exactly one row of the opcode map (R71). -/
inductive Mnemonic where
  | CLS | RET | JP | CALL | SE | SNE | SER | LD | ADD | MOV | OR | AND | XOR | ADDC | SUB | SHR | SUBN | SHL
  | SNER | LDI | JP0 | RND | DRW | SKP | SKNP | LDDT | LDK | STDT | STST | ADDI | FONT | BCD | STM | LDM
  deriving DecidableEq, Repr

/-- The six formats of R61: the subset of the field grid that an instruction uses. -/
inductive Format where
  | FIXED
  | NNN
  | XNN
  | XY
  | XYN
  | X
  deriving DecidableEq, Repr

/-- The mnemonic of an instruction. -/
def Instr.mnemonic : Instr → Mnemonic
  | .cls => .CLS
  | .ret => .RET
  | .jp _ => .JP
  | .call _ => .CALL
  | .se _ _ => .SE
  | .sne _ _ => .SNE
  | .ser _ _ => .SER
  | .ld _ _ => .LD
  | .add _ _ => .ADD
  | .mov _ _ => .MOV
  | .or _ _ => .OR
  | .and _ _ => .AND
  | .xor _ _ => .XOR
  | .addc _ _ => .ADDC
  | .sub _ _ => .SUB
  | .shr _ _ => .SHR
  | .subn _ _ => .SUBN
  | .shl _ _ => .SHL
  | .sner _ _ => .SNER
  | .ldi _ => .LDI
  | .jp0 _ => .JP0
  | .rnd _ _ => .RND
  | .drw _ _ _ => .DRW
  | .skp _ => .SKP
  | .sknp _ => .SKNP
  | .lddt _ => .LDDT
  | .ldk _ => .LDK
  | .stdt _ => .STDT
  | .stst _ => .STST
  | .addi _ => .ADDI
  | .font _ => .FONT
  | .bcd _ => .BCD
  | .stm _ => .STM
  | .ldm _ => .LDM

/-- The format column of R65. -/
def Mnemonic.format : Mnemonic → Format
  | .CLS | .RET => .FIXED
  | .JP | .CALL | .LDI | .JP0 => .NNN
  | .SE | .SNE | .LD | .ADD | .RND => .XNN
  | .SER | .MOV | .OR | .AND | .XOR | .ADDC | .SUB | .SHR | .SUBN | .SHL | .SNER => .XY
  | .DRW => .XYN
  | .SKP | .SKNP | .LDDT | .LDK | .STDT | .STST | .ADDI | .FONT | .BCD | .STM | .LDM => .X

/-- The operands of an instruction as numbers, in the order of the mnemonic column of R65 (R71). -/
def Instr.operands : Instr → List Nat
  | .cls | .ret => []
  | .jp nnn | .call nnn | .ldi nnn | .jp0 nnn => [nnn.toNat]
  | .se x nn | .sne x nn | .ld x nn | .add x nn | .rnd x nn => [x.val, nn.toNat]
  | .ser x y | .mov x y | .or x y | .and x y | .xor x y | .addc x y | .sub x y | .shr x y | .subn x y | .shl x y
  | .sner x y => [x.val, y.val]
  | .drw x y n => [x.val, y.val, n.val]
  | .skp x | .sknp x | .lddt x | .ldk x | .stdt x | .stst x | .addi x | .font x | .bcd x | .stm x | .ldm x => [x.val]

end Sys2Proof
end

