-- ==== Sys2Proof/WellFormed.lean ====
section
/-! DEFINITION. Which mnemonics with which operands are an instruction (30_encoding.md R61, R62, R71).
The fields of `Instr` carry their widths in their types, so every `Instr` is well formed (Laws/PerInstr.lean proves it
of each constructor); the check that can fail is the one on a line of R71's assembly syntax, whose operands are plain
numbers: the operand count of the format, register numbers below 16, `n` below 16, `nn` below 256, `nnn` below 4096. -/

namespace Sys2Proof

/-- The range check of one format on a list of operand values. -/
def Format.accepts : Format → List Nat → Bool
  | .FIXED, [] => true
  | .NNN, [nnn] => decide (nnn < 4096)
  | .XNN, [x, nn] => decide (x < 16) && decide (nn < 256)
  | .XY, [x, y] => decide (x < 16) && decide (y < 16)
  | .XYN, [x, y, n] => decide (x < 16) && decide (y < 16) && decide (n < 16)
  | .X, [x] => decide (x < 16)
  | _, _ => false

/-- One line of R71's assembly syntax: a mnemonic and its operand values in the order X, Y, N. The text of a line, with
its labels, is in Machine/Assembly.lean (log entry 28). -/
structure AsmLine where
  mnemonic : Mnemonic
  operands : List Nat
  deriving DecidableEq, Repr

/-- A line is well formed when its format accepts its operands. -/
def AsmLine.wellFormed (l : AsmLine) : Bool := l.mnemonic.format.accepts l.operands

/-- The line an instruction is written as. -/
def Instr.asmLine (i : Instr) : AsmLine := ⟨i.mnemonic, i.operands⟩

/-- An instruction is well formed when its line is. -/
def Instr.wellFormed (i : Instr) : Bool := i.asmLine.wellFormed

/-- A register operand, refused from 16 upward (R10, R71). -/
def asmReg (n : Nat) : Option (Fin 16) := if h : n < 16 then some ⟨n, h⟩ else none

/-- An immediate of `w` bits, refused where it does not fit (R71). -/
def asmImm (w n : Nat) : Option (BitVec w) := if n < 2 ^ w then some (BitVec.ofNat w n) else none

/-- The operand reader of format `NNN`. -/
def asmNNN (f : Addr12 → Instr) : List Nat → Option Instr
  | [nnn] => (asmImm 12 nnn).map f
  | _ => none

/-- The operand reader of format `XNN`. -/
def asmXNN (f : Reg → Byte → Instr) : List Nat → Option Instr
  | [x, nn] => (asmReg x).bind fun x => (asmImm 8 nn).map fun nn => f x nn
  | _ => none

/-- The operand reader of format `XY`. -/
def asmXY (f : Reg → Reg → Instr) : List Nat → Option Instr
  | [x, y] => (asmReg x).bind fun x => (asmReg y).map fun y => f x y
  | _ => none

/-- The operand reader of format `XYN`. -/
def asmXYN (f : Reg → Reg → Fin 16 → Instr) : List Nat → Option Instr
  | [x, y, n] => (asmReg x).bind fun x => (asmReg y).bind fun y => (asmReg n).map fun n => f x y n
  | _ => none

/-- The operand reader of format `X`. -/
def asmX (f : Reg → Instr) : List Nat → Option Instr
  | [x] => (asmReg x).map f
  | _ => none

/-- The operand reader of format `FIXED`. -/
def asmFixed (i : Instr) : List Nat → Option Instr
  | [] => some i
  | _ => none

/-- The instruction a line of assembly stands for (R71), or none where the line is ill formed. -/
def assemble (l : AsmLine) : Option Instr :=
  match l.mnemonic with
  | .CLS => asmFixed .cls l.operands
  | .RET => asmFixed .ret l.operands
  | .JP => asmNNN .jp l.operands
  | .CALL => asmNNN .call l.operands
  | .SE => asmXNN .se l.operands
  | .SNE => asmXNN .sne l.operands
  | .SER => asmXY .ser l.operands
  | .LD => asmXNN .ld l.operands
  | .ADD => asmXNN .add l.operands
  | .MOV => asmXY .mov l.operands
  | .OR => asmXY .or l.operands
  | .AND => asmXY .and l.operands
  | .XOR => asmXY .xor l.operands
  | .ADDC => asmXY .addc l.operands
  | .SUB => asmXY .sub l.operands
  | .SHR => asmXY .shr l.operands
  | .SUBN => asmXY .subn l.operands
  | .SHL => asmXY .shl l.operands
  | .SNER => asmXY .sner l.operands
  | .LDI => asmNNN .ldi l.operands
  | .JP0 => asmNNN .jp0 l.operands
  | .RND => asmXNN .rnd l.operands
  | .DRW => asmXYN .drw l.operands
  | .SKP => asmX .skp l.operands
  | .SKNP => asmX .sknp l.operands
  | .LDDT => asmX .lddt l.operands
  | .LDK => asmX .ldk l.operands
  | .STDT => asmX .stdt l.operands
  | .STST => asmX .stst l.operands
  | .ADDI => asmX .addi l.operands
  | .FONT => asmX .font l.operands
  | .BCD => asmX .bcd l.operands
  | .STM => asmX .stm l.operands
  | .LDM => asmX .ldm l.operands

end Sys2Proof
end

