-- ==== Sys2Proof/Decode.lean ====
section
/-! DEFINITION. The instruction word: its fields (30_encoding.md R62), the decoder (R64, R65, R70), the byte order of
the word in memory (R44, R60), the encoder, and the opcode map as a table of rows (R65). -/

namespace Sys2Proof

/-! ## Fields (R62) -/

/-- `class`, `op[15:12]`. -/
def opClass (op : Word) : BitVec 4 := op.extractLsb' 12 4

/-- `X`, `op[11:8]`. -/
def opX (op : Word) : Reg := (op.extractLsb' 8 4).toFin

/-- `Y`, `op[7:4]`. -/
def opY (op : Word) : Reg := (op.extractLsb' 4 4).toFin

/-- `N`, `op[3:0]`. -/
def opN (op : Word) : Fin 16 := (op.extractLsb' 0 4).toFin

/-- `NN`, `op[7:0]`. -/
def opNN (op : Word) : Byte := op.extractLsb' 0 8

/-- `NNN`, `op[11:0]`. -/
def opNNN (op : Word) : Addr12 := op.extractLsb' 0 12

/-! ## The decoder (R64, R65, R70) -/

/-- Why a word is no instruction: the six rows of R70's table of unrecognised words, one constructor each. -/
inductive Reject where
  /-- `0NNN` other than `00E0` and `00EE`. -/
  | class0
  /-- `5XYN` with N not 0. -/
  | class5
  /-- `8XYN` with N in 8, 9, A, B, C, D, F. -/
  | class8
  /-- `9XYN` with N not 0. -/
  | class9
  /-- `EXNN` with NN not 9E and not A1. -/
  | classE
  /-- `FXNN` with NN not in 07, 0A, 15, 18, 1E, 29, 33, 55, 65. -/
  | classF
  deriving DecidableEq, Repr

/-- Class 0: the whole low part is literal (R65, R70). -/
def decodeClass0 (op : Word) : Except Reject Instr :=
  match (opNNN op).toNat with
  | 0x0E0 => .ok .cls
  | 0x0EE => .ok .ret
  | _ => .error .class0

/-- Class 5: the low nibble must be 0 (R96, R70). -/
def decodeClass5 (op : Word) : Except Reject Instr :=
  match (opN op).val with
  | 0x0 => .ok (.ser (opX op) (opY op))
  | _ => .error .class5

/-- Class 8: the low nibble selects the operation (R65, R70). -/
def decodeClass8 (op : Word) : Except Reject Instr :=
  match (opN op).val with
  | 0x0 => .ok (.mov (opX op) (opY op))
  | 0x1 => .ok (.or (opX op) (opY op))
  | 0x2 => .ok (.and (opX op) (opY op))
  | 0x3 => .ok (.xor (opX op) (opY op))
  | 0x4 => .ok (.addc (opX op) (opY op))
  | 0x5 => .ok (.sub (opX op) (opY op))
  | 0x6 => .ok (.shr (opX op) (opY op))
  | 0x7 => .ok (.subn (opX op) (opY op))
  | 0xE => .ok (.shl (opX op) (opY op))
  | _ => .error .class8

/-- Class 9: the low nibble must be 0 (R97, R70). -/
def decodeClass9 (op : Word) : Except Reject Instr :=
  match (opN op).val with
  | 0x0 => .ok (.sner (opX op) (opY op))
  | _ => .error .class9

/-- Class E: the low byte selects the operation (R65, R70). -/
def decodeClassE (op : Word) : Except Reject Instr :=
  match (opNN op).toNat with
  | 0x9E => .ok (.skp (opX op))
  | 0xA1 => .ok (.sknp (opX op))
  | _ => .error .classE

/-- Class F: the low byte selects the operation (R65, R70). -/
def decodeClassF (op : Word) : Except Reject Instr :=
  match (opNN op).toNat with
  | 0x07 => .ok (.lddt (opX op))
  | 0x0A => .ok (.ldk (opX op))
  | 0x15 => .ok (.stdt (opX op))
  | 0x18 => .ok (.stst (opX op))
  | 0x1E => .ok (.addi (opX op))
  | 0x29 => .ok (.font (opX op))
  | 0x33 => .ok (.bcd (opX op))
  | 0x55 => .ok (.stm (opX op))
  | 0x65 => .ok (.ldm (opX op))
  | _ => .error .classF

/-- The decoder: first by class, then by the literal low bits that the format names (R64). Total: a word that matches
no row is rejected by the name of its kind (R70). The last arm is class F. -/
def decode (op : Word) : Except Reject Instr :=
  match (opClass op).toNat with
  | 0x0 => decodeClass0 op
  | 0x1 => .ok (.jp (opNNN op))
  | 0x2 => .ok (.call (opNNN op))
  | 0x3 => .ok (.se (opX op) (opNN op))
  | 0x4 => .ok (.sne (opX op) (opNN op))
  | 0x5 => decodeClass5 op
  | 0x6 => .ok (.ld (opX op) (opNN op))
  | 0x7 => .ok (.add (opX op) (opNN op))
  | 0x8 => decodeClass8 op
  | 0x9 => decodeClass9 op
  | 0xA => .ok (.ldi (opNNN op))
  | 0xB => .ok (.jp0 (opNNN op))
  | 0xC => .ok (.rnd (opX op) (opNN op))
  | 0xD => .ok (.drw (opX op) (opY op) (opN op))
  | 0xE => decodeClassE op
  | _ => decodeClassF op

/-! ## The word in memory: two bytes, most significant first (R44, R60) -/

/-- The word of two consecutive bytes: `hi ++ lo` (R81). -/
def wordOfBytes (hi lo : Byte) : Word := hi ++ lo

/-- The byte stored at the lower address: `op[15:8]` (R44). -/
def wordHi (op : Word) : Byte := op.extractLsb' 8 8

/-- The byte stored at the higher address: `op[7:0]` (R44). -/
def wordLo (op : Word) : Byte := op.extractLsb' 0 8

/-- The decoder on the two bytes of an instruction. -/
def decodeBytes (hi lo : Byte) : Except Reject Instr := decode (wordOfBytes hi lo)

/-! ## The encoder (R61, R65) -/

/-- The four bits of a register index or of the row count. -/
def nibble (n : Fin 16) : BitVec 4 := BitVec.ofFin n

/-- Format `XNN`. -/
def encXNN (c : BitVec 4) (x : Reg) (nn : Byte) : Word := c ++ nibble x ++ nn

/-- Formats `XY` and `XYN`. -/
def encXYN (c : BitVec 4) (x y : Reg) (n : Fin 16) : Word := c ++ nibble x ++ nibble y ++ nibble n

/-- Format `NNN`. -/
def encNNN (c : BitVec 4) (nnn : Addr12) : Word := c ++ nnn

/-- The word of an instruction: the pattern column of R65. -/
def encode : Instr → Word
  | .cls => 0x00E0#16
  | .ret => 0x00EE#16
  | .jp nnn => encNNN 0x1#4 nnn
  | .call nnn => encNNN 0x2#4 nnn
  | .se x nn => encXNN 0x3#4 x nn
  | .sne x nn => encXNN 0x4#4 x nn
  | .ser x y => encXYN 0x5#4 x y 0x0
  | .ld x nn => encXNN 0x6#4 x nn
  | .add x nn => encXNN 0x7#4 x nn
  | .mov x y => encXYN 0x8#4 x y 0x0
  | .or x y => encXYN 0x8#4 x y 0x1
  | .and x y => encXYN 0x8#4 x y 0x2
  | .xor x y => encXYN 0x8#4 x y 0x3
  | .addc x y => encXYN 0x8#4 x y 0x4
  | .sub x y => encXYN 0x8#4 x y 0x5
  | .shr x y => encXYN 0x8#4 x y 0x6
  | .subn x y => encXYN 0x8#4 x y 0x7
  | .shl x y => encXYN 0x8#4 x y 0xE
  | .sner x y => encXYN 0x9#4 x y 0x0
  | .ldi nnn => encNNN 0xA#4 nnn
  | .jp0 nnn => encNNN 0xB#4 nnn
  | .rnd x nn => encXNN 0xC#4 x nn
  | .drw x y n => encXYN 0xD#4 x y n
  | .skp x => encXNN 0xE#4 x 0x9E#8
  | .sknp x => encXNN 0xE#4 x 0xA1#8
  | .lddt x => encXNN 0xF#4 x 0x07#8
  | .ldk x => encXNN 0xF#4 x 0x0A#8
  | .stdt x => encXNN 0xF#4 x 0x15#8
  | .stst x => encXNN 0xF#4 x 0x18#8
  | .addi x => encXNN 0xF#4 x 0x1E#8
  | .font x => encXNN 0xF#4 x 0x29#8
  | .bcd x => encXNN 0xF#4 x 0x33#8
  | .stm x => encXNN 0xF#4 x 0x55#8
  | .ldm x => encXNN 0xF#4 x 0x65#8

/-! ## Program images in R71's syntax -/

/-- The two bytes of an instruction in memory order (R44). -/
def encodeBytes (i : Instr) : List Byte := [wordHi (encode i), wordLo (encode i)]

/-- One line of a program text: an instruction line (R71) or the directive `DB b, b, ...` (R72). -/
inductive AsmItem where
  | line (l : AsmLine)
  | db (bytes : List Nat)
  deriving DecidableEq, Repr

/-- The bytes a program line places in the image (R71, R72), or none where the line is ill formed. -/
def AsmItem.image : AsmItem → Option (List Byte)
  | .line l => (assemble l).map encodeBytes
  | .db bytes => bytes.mapM (asmImm 8)

/-- The image of a program text, placed line after line (R71). -/
def programImage (items : List AsmItem) : Option (List Byte) :=
  (items.mapM AsmItem.image).map List.flatten

/-! ## The opcode map as rows (R65) -/

/-- The mask of a row: the bits of the word that are literal in its pattern (R65). -/
def Mnemonic.mask : Mnemonic → Word
  | .CLS | .RET => 0xFFFF
  | .JP | .CALL | .SE | .SNE | .LD | .ADD | .LDI | .JP0 | .RND | .DRW => 0xF000
  | .SER | .MOV | .OR | .AND | .XOR | .ADDC | .SUB | .SHR | .SUBN | .SHL | .SNER => 0xF00F
  | .SKP | .SKNP | .LDDT | .LDK | .STDT | .STST | .ADDI | .FONT | .BCD | .STM | .LDM => 0xF0FF

/-- The match column of R65: what the masked word equals. -/
def Mnemonic.pattern : Mnemonic → Word
  | .CLS => 0x00E0
  | .RET => 0x00EE
  | .JP => 0x1000
  | .CALL => 0x2000
  | .SE => 0x3000
  | .SNE => 0x4000
  | .SER => 0x5000
  | .LD => 0x6000
  | .ADD => 0x7000
  | .MOV => 0x8000
  | .OR => 0x8001
  | .AND => 0x8002
  | .XOR => 0x8003
  | .ADDC => 0x8004
  | .SUB => 0x8005
  | .SHR => 0x8006
  | .SUBN => 0x8007
  | .SHL => 0x800E
  | .SNER => 0x9000
  | .LDI => 0xA000
  | .JP0 => 0xB000
  | .RND => 0xC000
  | .DRW => 0xD000
  | .SKP => 0xE09E
  | .SKNP => 0xE0A1
  | .LDDT => 0xF007
  | .LDK => 0xF00A
  | .STDT => 0xF015
  | .STST => 0xF018
  | .ADDI => 0xF01E
  | .FONT => 0xF029
  | .BCD => 0xF033
  | .STM => 0xF055
  | .LDM => 0xF065

/-- A word selects a row when `op and mask = match` (R64). -/
def Mnemonic.selects (m : Mnemonic) (op : Word) : Bool := (op &&& m.mask) == m.pattern

/-! ## The host's reading of a table row -/

/-- The word of a table row's bits: every bit above `nbits` is 0. -/
def tableWord (nbits w : Nat) : Word := BitVec.ofNat 16 (w % 2 ^ nbits)

/-- What the decoder reads from the bits `w` of an instruction, laid out as the hardware stores them: the high byte at
the lower address (R44). None where it refuses. -/
def decodeTableWord (nbits w : Nat) : Option Instr :=
  let op := tableWord nbits w
  (decodeBytes (wordHi op) (wordLo op)).toOption

end Sys2Proof
end

