-- ==== Sys2Proof/Machine/Flags.lean ====
section
/-! DEFINITION. The flag computations: what `ADDC`, `SUB`, `SUBN`, `SHR`, `SHL` and `DRW` write to `x[15]`
(10_state.md R12). Each is computed from the operands as they were before the instruction (R11, R110; D7). -/

namespace Sys2Proof.Machine

/-- A flag value is the 8-bit number 0 or 1 (R12). -/
def flagByte (flag : Bool) : Byte := if flag then 1 else 0

/-- `ADDC`: the unsigned sum exceeds 255 (R117). -/
def carryOut (a b : Byte) : Bool := decide (a.toNat + b.toNat > 255)

/-- `SUB`, `SUBN`: no borrow is needed, `a >= b` (R118, R120). -/
def noBorrow (a b : Byte) : Bool := decide (a.toNat ≥ b.toNat)

/-- `SHR`: bit 0 of the source before the shift (R119). -/
def shiftedOutRight (v : Byte) : Bool := v.getLsbD 0

/-- `SHL`: bit 7 of the source before the shift (R121). -/
def shiftedOutLeft (v : Byte) : Bool := v.getLsbD 7

end Sys2Proof.Machine
end

