-- ==== Sys2Proof/Config.lean ====
section
/-! DEFINITION. What the spec leaves open: the parameters of 00_scope.md R3 (`FONT`, `SHIFT_SRC`) and the free
value `rnd` of 42_arith_logic.md R122. -/

namespace Sys2Proof

/-- Which register the shifts take as their source: the parameter `SHIFT_SRC` (R119, R121; decision D5, OPEN). -/
inductive ShiftSrc where
  | x
  | y
  deriving DecidableEq, Repr

/-- The parameter `FONT`: 80 bytes, 16 glyphs of 5 bytes (R3, R21). -/
abbrev Font := Vector Byte 80

/-- The parameters the spec says a model takes as arguments (R3). They are constant: no operation writes them. -/
structure Config where
  /-- `FONT`, the reset contents of addresses 0 to 79 (R21). -/
  font : Font
  /-- `SHIFT_SRC` (R119, R121). -/
  shiftSrc : ShiftSrc
  deriving DecidableEq, Repr

/-- Glyphs 0 to 7 of the table of R21. -/
def Config.glyphs0to7 : List Byte :=
  [0xF0, 0x90, 0x90, 0x90, 0xF0] ++ [0x20, 0x60, 0x20, 0x20, 0x70] ++
  [0xF0, 0x10, 0xF0, 0x80, 0xF0] ++ [0xF0, 0x10, 0xF0, 0x10, 0xF0] ++
  [0x90, 0x90, 0xF0, 0x10, 0x10] ++ [0xF0, 0x80, 0xF0, 0x10, 0xF0] ++
  [0xF0, 0x80, 0xF0, 0x90, 0xF0] ++ [0xF0, 0x10, 0x20, 0x40, 0x40]

/-- Glyphs 8 to F of the table of R21. -/
def Config.glyphs8toF : List Byte :=
  [0xF0, 0x90, 0xF0, 0x90, 0xF0] ++ [0xF0, 0x90, 0xF0, 0x10, 0xF0] ++
  [0xF0, 0x90, 0xF0, 0x90, 0x90] ++ [0xE0, 0x90, 0xE0, 0x90, 0xE0] ++
  [0xF0, 0x80, 0x80, 0x80, 0xF0] ++ [0xE0, 0x90, 0x90, 0x90, 0xE0] ++
  [0xF0, 0x80, 0xF0, 0x80, 0xF0] ++ [0xF0, 0x80, 0xF0, 0x80, 0x80]

/-- PRESUMED (by the spec itself, G5 and D16): the default `FONT`, the customary table printed in R21. Unsafe for a
claim about glyph shapes that starts from `State.reset`; log entry 6. -/
def Config.defaultFont : Font :=
  ⟨(Config.glyphs0to7 ++ Config.glyphs8toF).toArray, by decide⟩

/-- The defaults of R3: the font of R21 and `SHIFT_SRC = X`. UNVERIFIED, log entries 5 and 6. -/
def Config.default : Config where
  font := Config.defaultFont
  shiftSrc := .x

/-- FREE VALUE: the byte that the random source delivers at its `k`-th draw (R122, R173; D15; log entry 4). It has
no body, so a claim that holds holds for every sequence of draws. -/
opaque Config.rnd : Nat → Byte

end Sys2Proof
end

