-- ==== Sys2Proof/Machine/State.lean ====
section
/-! DEFINITION. The state of the machine as plain data: all the state of 10_state.md, the parameters of 00_scope.md R3,
and the inputs and outputs of the four host operations (00_scope.md R9); and the state after `reset`. -/

namespace Sys2Proof.Machine

/-- A step can end in no fault: the core raises no exception, fault, trap or error result for any instruction in any
state (R8, R160). No one raises one, so the type has no constructor; safe (log entry 23). -/
inductive Fault where
  deriving DecidableEq, Repr

/-- Why a step could be refused. -/
inductive Refusal where
  /-- Raised by an arm of `exec` for an instruction that has no meaning yet; no arm raises it now. Safe. -/
  | notModelled (mnemonic : String)
  deriving DecidableEq, Repr

/-- The key vector `KEYS` of one `step`, one flag per logical key, true where the key is down (R23). -/
abbrev KeyVector := Vector Bool 16

/-- The wait-for-key state `WAIT` (R19, R154). -/
inductive Wait where
  | running
  | awaitingKey (r : Reg)
  deriving DecidableEq, Repr

/-- The four operations of the host (R9, R164). -/
inductive HostOp where
  /-- `reset()` (R180). -/
  | reset
  /-- `load(rom)` (R181), a byte string of any length. -/
  | load (rom : List Byte)
  /-- `tick_timers()` (R167). -/
  | tickTimers
  /-- `step(keys)` (R80). -/
  | step (keys : KeyVector)
  deriving DecidableEq, Repr

/-- Memory: the bytes that differ from the reset contents, by strictly rising address (`Memory.wf` in Ops.lean). -/
abbrev Memory := List Host.Cell

/-- The display surface: 32 rows from the top, each of 64 cells from the left, true where the cell is on (R22). -/
abbrev Display := Vector (Vector Bool 64) 32

/-- The machine. The fields down to `fb` are the state of 10_state.md; `cfg` holds the parameters of R3, which no
operation writes; the last four fields are the inputs and outputs of the host operations (log entries 1 to 4). -/
structure State where
  /-- `x[0]` to `x[15]`; `x[15]` is also the flag (R10, R11, R12). -/
  regs : Vector Byte 16
  /-- `pc`, a byte address (R13). -/
  pc : Word
  /-- `I` (R14). -/
  idx : Word
  /-- `DT` (R15). -/
  dt : Byte
  /-- `ST` (R16). -/
  st : Byte
  /-- `SP`, the number of valid stack entries, 0 to 16 (R17). -/
  sp : Fin 17
  /-- `STK[0]` to `STK[15]` (R17). -/
  stk : Vector Word 16
  /-- `WAIT` (R19). -/
  wait : Wait
  /-- `MEM[0]` to `MEM[4095]` (R20), as the difference from the reset contents. -/
  mem : Memory
  /-- `FB[cy][cx]` (R22). -/
  fb : Display
  /-- The parameters `FONT` and `SHIFT_SRC` (R3). -/
  cfg : Config
  /-- DESIGN CHOICE (log entry 1): the key vector of the current `step`, its argument `KEYS` (R23, R80). -/
  keys : KeyVector
  /-- DESIGN CHOICE (log entry 4): how many bytes the random source has delivered; draw `k` is `Config.rnd k`. -/
  draws : Nat
  /-- DESIGN CHOICE (log entry 3): what the latest `tick_timers` returned to the host, none before the first. -/
  soundOut : Option Bool
  /-- DESIGN CHOICE (log entry 2): the operations the host will issue next, oldest first. -/
  host : List HostOp
  deriving DecidableEq, Repr

/-- The display with every cell off (R22, R140). -/
def Display.blank : Display := Vector.replicate 32 (Vector.replicate 64 false)

/-- The state right after `reset` (R25, R180): every register 0, `pc` = 0x0200, an empty stack, `Running`, memory at
its reset contents, the display blank; the parameters at the defaults of R3. The last four fields are DESIGN CHOICE
(log entries 1 to 4): no key down, no byte drawn, no tick yet, no operation queued. -/
def State.reset : State where
  regs := Vector.replicate 16 0
  pc := 0x0200
  idx := 0
  dt := 0
  st := 0
  sp := 0
  stk := Vector.replicate 16 0
  wait := .running
  mem := []
  fb := Display.blank
  cfg := Config.default
  keys := Vector.replicate 16 false
  draws := 0
  soundOut := none
  host := []

end Sys2Proof.Machine
end

