-- ==== Sys2Proof/Machine/Ops.lean ====
section
/-! DEFINITION. The named operations over memory, registers, the flag, the call stack and the program counter
(00_scope.md R6, R7; 10_state.md; 20_memory.md; 40_step_and_fetch.md R81, R84).

There is no operation for taking an exception and none for returning from one: the core raises no exception and takes
no interrupt, and it has no trap entry and no trap return (R160, R161, R163). -/

namespace Sys2Proof.Machine

/-! ## Memory (R20, R21, R40, R41, R42) -/

/-- `MEM_SIZE` (R3). -/
def memSize : Nat := 4096

/-- `LOAD_OFFSET` (R3). -/
def loadOffset : Nat := 0x200

/-- What an address that memory does not list reads as: the reset contents, `FONT` at 0 to 79 and 0 elsewhere
(R21, R25). -/
def Memory.unlisted (font : Font) (a : Nat) : Byte := if h : a < 80 then font[a] else 0

/-- The canonical form: addresses strictly rising and inside the 4096 bytes, no byte equal to what its address reads
as unlisted. -/
abbrev Memory.wf (font : Font) (m : Memory) : Prop :=
  m.Pairwise (fun c d => c.1 < d.1) ∧ ∀ c ∈ m, c.1 < memSize ∧ c.2 ≠ Memory.unlisted font c.1

/-- The byte listed at an address, if one is. -/
def Memory.lookup (m : Memory) (a : Nat) : Option Byte :=
  match m with
  | [] => none
  | c :: m => if c.1 = a then some c.2 else Memory.lookup m a

/-- The list without the entries at an address. -/
def Memory.erase (m : Memory) (a : Nat) : Memory :=
  match m with
  | [] => []
  | c :: m => if c.1 = a then Memory.erase m a else c :: Memory.erase m a

/-- The list with an entry put before the first larger address. -/
def Memory.insert (m : Memory) (a : Nat) (v : Byte) : Memory :=
  match m with
  | [] => [(a, v)]
  | c :: m => if a < c.1 then (a, v) :: c :: m else c :: Memory.insert m a v

/-- `MEM[a] <- v` for an address inside memory: the value an unlisted address reads as is not listed. -/
def Memory.put (font : Font) (m : Memory) (a : Nat) (v : Byte) : Memory :=
  if v = Memory.unlisted font a then Memory.erase m a else Memory.insert (Memory.erase m a) a v

/-- `MemRead(addr, 1)` (R40): the byte at `a`, or 0 outside memory. `a` is an unbounded natural number (R43). -/
def Memory.read (font : Font) (m : Memory) (a : Nat) : Byte :=
  if a < memSize then (Memory.lookup m a).getD (Memory.unlisted font a) else 0

/-- `MemWrite(addr, 1, v)` (R41): writes inside memory, nothing outside. -/
def Memory.write (font : Font) (m : Memory) (a : Nat) (v : Byte) : Memory :=
  if a < memSize then Memory.put font m a v else m

/-- `MemRead` on the state (R40). -/
def State.readByte (s : State) (a : Nat) : Byte := Memory.read s.cfg.font s.mem a

/-- `MemWrite` on the state (R41). -/
def State.writeByte (s : State) (a : Nat) (v : Byte) : State := { s with mem := Memory.write s.cfg.font s.mem a v }

/-- `WriteSeq(start, bytes)` (R42): each byte on its own, in ascending order. -/
def State.writeSeq (s : State) (start : Nat) (bytes : List Byte) : State :=
  match bytes with
  | [] => s
  | b :: bytes => (s.writeByte start b).writeSeq (start + 1) bytes

/-- `n` bytes read at ascending addresses from `start`, each on its own (R132). -/
def State.readSeq (s : State) (start n : Nat) : List Byte := (List.range n).map fun k => s.readByte (start + k)

/-! ## Registers and the flag (R6, R10, R11, R12) -/

/-- `x[r]`. -/
def State.reg (s : State) (r : Reg) : Byte := s.regs[r]

/-- `x[r] <- v`. -/
def State.setReg (s : State) (r : Reg) (v : Byte) : State := { s with regs := s.regs.set r v }

/-- `x[15] <- 1` or `x[15] <- 0`: the flag is register 15 (R11, R12). -/
def State.setFlag (s : State) (flag : Bool) : State := s.setReg 15 (flagByte flag)

/-- The result first, then the flag, so that with `x` = 15 the flag is what remains (R11, R110; D6; log entry 12). -/
def State.setRegFlag (s : State) (x : Reg) (v : Byte) (flag : Bool) : State := (s.setReg x v).setFlag flag

/-- `x[start] <- bytes[0]`, `x[start+1] <- bytes[1]` and so on, in ascending order. -/
def State.setRegs (s : State) (start : Nat) (bytes : List Byte) : State :=
  match bytes with
  | [] => s
  | b :: bytes => State.setRegs { s with regs := s.regs.setIfInBounds start b } (start + 1) bytes

/-- `x[0]` to `x[n-1]` in ascending order. -/
def State.firstRegs (s : State) (n : Nat) : List Byte := s.regs.toList.take n

/-- `I <- v`. -/
def State.setIdx (s : State) (v : Word) : State := { s with idx := v }

/-! ## Timers, wait state and display as wholes (R15, R16, R19, R22) -/

/-- `DT <- v`. -/
def State.setDt (s : State) (v : Byte) : State := { s with dt := v }

/-- `ST <- v`. -/
def State.setSt (s : State) (v : Byte) : State := { s with st := v }

/-- `WAIT <- w`. -/
def State.setWait (s : State) (w : Wait) : State := { s with wait := w }

/-- `FB <- fb`, every cell. -/
def State.setDisplay (s : State) (fb : Display) : State := { s with fb := fb }

/-! ## Program counter (R13, R81, R84) -/

/-- `pc <- target`. -/
def State.jump (s : State) (target : Word) : State := { s with pc := target }

/-- `pc <- (pc + 2) mod 65536`: the fetch's advance (R81) and the skip (R84). -/
def State.advancePc (s : State) : State := s.jump (s.pc + 2)

/-- `if c then Skip()` (R84). -/
def State.skipIf (s : State) (c : Bool) : State := if c then s.advancePc else s

/-- The word at `pc`, most significant byte first; `pc + 1` is not wrapped (R43, R44, R81). -/
def State.fetchWord (s : State) : Word := wordOfBytes (s.readByte s.pc.toNat) (s.readByte (s.pc.toNat + 1))

/-- `Fetch()` (R81): the word, and the state with `pc` advanced. -/
def State.fetch (s : State) : Word × State := (s.fetchWord, s.advancePc)

/-- A word that matches no row (R70; D2; log entry 7): a no-op. The fetch has already advanced `pc`. -/
def execUnrecognised (_ : Reject) (s : State) : Host.Outcome State Fault Refusal := .next s

/-! ## Call stack (R17, R18) -/

/-- `Push(v)` (R17): dropped when the stack is full. -/
def State.push (s : State) (v : Word) : State :=
  if h : s.sp.val < 16 then { s with stk := s.stk.set s.sp.val v, sp := ⟨s.sp.val + 1, by omega⟩ } else s

/-- `Pop()` (R18): the top entry, or 0 from an empty stack; the slot keeps its value. -/
def State.pop (s : State) : Word × State :=
  if h : 0 < s.sp.val then
    (s.stk[s.sp.val - 1]'(by omega), { s with sp := ⟨s.sp.val - 1, by omega⟩ })
  else (0, s)

/-! ## The random source (R122, R173) -/

/-- A fresh byte of the random source: the free value of this draw (log entry 4). -/
def State.draw (s : State) : Byte × State := (Config.rnd s.draws, { s with draws := s.draws + 1 })

/-! ## Display cells (R22) -/

/-- `FB[cy][cx]`; outside the 32 rows of 64 there is no cell, and this reads off. -/
def Display.cell (fb : Display) (cy cx : Nat) : Bool :=
  if h : cy < 32 ∧ cx < 64 then (fb[cy]'h.1)[cx]'h.2 else false

/-- `FB[cy][cx] <- FB[cy][cx] xor 1` for a cell of the grid, nothing outside it. -/
def Display.toggle (fb : Display) (cy cx : Nat) : Display :=
  if h : cy < 32 ∧ cx < 64 then fb.set cy ((fb[cy]'h.1).set cx (!fb.cell cy cx) h.2) h.1 else fb

/-! ## Laying an instruction where the next fetch reads it -/

/-- Where the next instruction is fetched: `pc`, or the load offset where the two bytes at `pc` would not both lie in
memory (log entry 25). -/
def State.fetchPoint (s : State) : Word := if s.pc.toNat + 1 < memSize then s.pc else BitVec.ofNat 16 loadOffset

end Sys2Proof.Machine
end

