-- ==== Sys2Proof/Machine/Operands.lean ====
section
/-! DEFINITION. The operand forms: address targets (30_encoding.md R63), the shift source (R119, R121), addressing
through `I` (43_index_memory.md R132), keys (41_control_flow.md R98) and sprites (44_display.md R141). -/

namespace Sys2Proof.Machine

/-- `zext_16(NNN)` (R63). -/
def target (nnn : Addr12) : Word := nnn.zeroExtend 16

/-- `zext_16(NNN) + zext_16(x[0])` (R93); the sum cannot wrap. -/
def State.indexedTarget (s : State) (nnn : Addr12) : Word := target nnn + (s.reg 0).zeroExtend 16

/-- The source of a shift: `x[X]` or `x[Y]`, by the parameter `SHIFT_SRC` (R119, R121). -/
def State.shiftSource (s : State) (x y : Reg) : Byte :=
  match s.cfg.shiftSrc with
  | .x => s.reg x
  | .y => s.reg y

/-- The base address of every data access: `I` as an unbounded number, to which the byte count is added without
wrapping (R43, R132). -/
def State.base (s : State) : Nat := s.idx.toNat

/-- The decimal digits of a byte: hundreds, tens, ones (R134). -/
def decimalDigits (v : Byte) : List Byte :=
  [BitVec.ofNat 8 (v.toNat / 100), BitVec.ofNat 8 (v.toNat / 10 % 10), BitVec.ofNat 8 (v.toNat % 10)]

/-- `KeyDown(v)` (R98): the key's flag, or up for a code that names no key (D8). -/
def State.keyDown (s : State) (v : Byte) : Bool :=
  if h : v.toNat < 16 then s.keys[v.toNat] else false

/-- The first key down in ascending order from index `k` (R155; D9). -/
def firstDown (keys : List Bool) (k : Nat) : Option Nat :=
  match keys with
  | [] => none
  | down :: keys => if down then some k else firstDown keys (k + 1)

/-- The lowest key that is down, if one is (R155). -/
def State.firstKey (s : State) : Option Nat := firstDown s.keys.toList 0

/-- The anchor column of a sprite: `x[X] mod 64` (R142). -/
def State.anchorX (s : State) (x : Reg) : Nat := (s.reg x).toNat % 64

/-- The anchor row of a sprite: `x[Y] mod 32` (R142). -/
def State.anchorY (s : State) (y : Reg) : Nat := (s.reg y).toNat % 32

/-- The pixel in sprite column `c` of a row byte: bit `7 - c` (R141). -/
def spritePixel (row : Byte) (c : Nat) : Bool := row.getLsbD (7 - c)

end Sys2Proof.Machine
end

