-- ==== Sys2Proof/Machine/ControlFlow.lean ====
section
/-! DEFINITION. Control flow and stack instructions (41_control_flow.md R90 to R101). Every meaning is for the moment
after the fetch: `pc` already holds the address of the next instruction (R83). -/

namespace Sys2Proof.Machine

/-- `RET` (R90): `pc <- Pop()`. -/
def execRet (s : State) : Host.Outcome State Fault Refusal := .next (s.pop.2.jump s.pop.1)

/-- `JP nnn` (R91). -/
def execJp (nnn : Addr12) (s : State) : Host.Outcome State Fault Refusal := .next (s.jump (target nnn))

/-- `CALL nnn` (R92): push the address after the `CALL`, then jump, also with the stack full (D22). -/
def execCall (nnn : Addr12) (s : State) : Host.Outcome State Fault Refusal := .next ((s.push s.pc).jump (target nnn))

/-- `JP0 nnn` (R93). -/
def execJp0 (nnn : Addr12) (s : State) : Host.Outcome State Fault Refusal := .next (s.jump (s.indexedTarget nnn))

/-- `SE Vx, nn` (R94). -/
def execSe (x : Reg) (nn : Byte) (s : State) : Host.Outcome State Fault Refusal := .next (s.skipIf (s.reg x == nn))

/-- `SNE Vx, nn` (R95). -/
def execSne (x : Reg) (nn : Byte) (s : State) : Host.Outcome State Fault Refusal := .next (s.skipIf (s.reg x != nn))

/-- `SER Vx, Vy` (R96). -/
def execSer (x y : Reg) (s : State) : Host.Outcome State Fault Refusal := .next (s.skipIf (s.reg x == s.reg y))

/-- `SNER Vx, Vy` (R97). -/
def execSner (x y : Reg) (s : State) : Host.Outcome State Fault Refusal := .next (s.skipIf (s.reg x != s.reg y))

/-- `SKP Vx` (R99). -/
def execSkp (x : Reg) (s : State) : Host.Outcome State Fault Refusal := .next (s.skipIf (s.keyDown (s.reg x)))

/-- `SKNP Vx` (R100). -/
def execSknp (x : Reg) (s : State) : Host.Outcome State Fault Refusal := .next (s.skipIf (!s.keyDown (s.reg x)))

end Sys2Proof.Machine
end

