-- ==== Sys2Proof/Machine/DisplayDraw.lean ====
section
/-! DEFINITION. Display instructions (44_display.md R140 to R142): the loops of R142 over rows and columns, carrying the
display and the collision seen so far. -/

namespace Sys2Proof.Machine

/-- `CLS` (R140): every cell off, no flag. -/
def execCls (s : State) : Host.Outcome State Fault Refusal := .next (s.setDisplay Display.blank)

/-- One set sprite pixel at column `cx`, row `cy`: clipped outside the grid; a cell that goes from on to off is a
collision (R142). -/
def drawPixel (cy cx : Nat) (p : Display × Bool) : Display × Bool :=
  if cy < 32 ∧ cx < 64 then (p.1.toggle cy cx, p.2 || p.1.cell cy cx) else p

/-- Columns 0 to `n - 1` of one sprite row, in ascending order; a clear bit is transparent (R141, R142). -/
def drawColumns (row : Byte) (cy x0 n : Nat) (p : Display × Bool) : Display × Bool :=
  match n with
  | 0 => p
  | n + 1 =>
    if spritePixel row n then drawPixel cy (x0 + n) (drawColumns row cy x0 n p) else drawColumns row cy x0 n p

/-- Rows 0 to `n - 1` of a sprite at `I`, in ascending order (R142). -/
def State.drawRows (s : State) (x0 y0 n : Nat) (p : Display × Bool) : Display × Bool :=
  match n with
  | 0 => p
  | n + 1 => drawColumns (s.readByte (s.base + n)) (y0 + n) x0 8 (s.drawRows x0 y0 n p)

/-- `DRW Vx, Vy, n` (R142): the anchor is read before the flag is written, which happens on every execution (D7). -/
def execDrw (x y : Reg) (n : Fin 16) (s : State) : Host.Outcome State Fault Refusal :=
  let drawn := s.drawRows (s.anchorX x) (s.anchorY y) n.val (s.fb, false)
  .next ((s.setDisplay drawn.1).setFlag drawn.2)

end Sys2Proof.Machine
end

