-- ==== Sys2Proof/Machine/IndexMemory.lean ====
section
/-! DEFINITION. Index-register and memory instructions (43_index_memory.md R130 to R136). `BCD`, `STM` and `LDM` leave
`I` unchanged (R132; D10). -/

namespace Sys2Proof.Machine

/-- `LDI nnn` (R130). -/
def execLdi (nnn : Addr12) (s : State) : Host.Outcome State Fault Refusal := .next (s.setIdx (target nnn))

/-- `ADDI Vx` (R131): wraps at 16 bits, no flag. -/
def execAddi (x : Reg) (s : State) : Host.Outcome State Fault Refusal :=
  .next (s.setIdx (s.idx + (s.reg x).zeroExtend 16))

/-- `FONT Vx` (R133): five times the register, not masked to a digit (D23). -/
def execFont (x : Reg) (s : State) : Host.Outcome State Fault Refusal :=
  .next (s.setIdx (BitVec.ofNat 16 ((s.reg x).toNat * 5)))

/-- `BCD Vx` (R134). -/
def execBcd (x : Reg) (s : State) : Host.Outcome State Fault Refusal :=
  .next (s.writeSeq s.base (decimalDigits (s.reg x)))

/-- `STM Vx` (R135): always `x[0]` to `x[14]`, whatever `x` is (C1, D11). -/
def execStm (_ : Reg) (s : State) : Host.Outcome State Fault Refusal :=
  .next (s.writeSeq s.base (s.firstRegs 15))

/-- `LDM Vx` (R136): `x[0]` to `x[X]`. -/
def execLdm (x : Reg) (s : State) : Host.Outcome State Fault Refusal :=
  .next (s.setRegs 0 (s.readSeq s.base (x.val + 1)))

end Sys2Proof.Machine
end

