-- ==== Sys2Proof/Machine/TimerKey.lean ====
section
/-! DEFINITION. Timer instructions and the keyboard wait (45_timer_key.md R150 to R156). -/

namespace Sys2Proof.Machine

/-- `LDDT Vx` (R150). -/
def execLddt (x : Reg) (s : State) : Host.Outcome State Fault Refusal := .next (s.setReg x s.dt)

/-- `STDT Vx` (R151). -/
def execStdt (x : Reg) (s : State) : Host.Outcome State Fault Refusal := .next (s.setDt (s.reg x))

/-- `STST Vx` (R152). -/
def execStst (x : Reg) (s : State) : Host.Outcome State Fault Refusal := .next (s.setSt (s.reg x))

/-- `LDK Vx` (R153): only enters the wait; the keys of this `step` are not looked at. -/
def execLdk (x : Reg) (s : State) : Host.Outcome State Fault Refusal := .next (s.setWait (.awaitingKey x))

/-- `AwaitStep(r)` (R155): the lowest key down is written to `x[r]` and the wait ends; with no key down nothing
changes. Nothing is fetched. -/
def State.awaitStep (s : State) (r : Reg) : State :=
  match s.firstKey with
  | some k => (s.setReg r (BitVec.ofNat 8 k)).setWait .running
  | none => s

end Sys2Proof.Machine
end

