-- ==== Sys2Proof/Machine/HostOps.lean ====
section
/-! DEFINITION. The host's operations beside `step` (60_exceptions.md R164, R167; 70_reset_and_hazards.md R180, R181),
and which operation the host issues next (log entry 2). -/

namespace Sys2Proof.Machine

/-- `reset()` (R180): the core returns to the constructed state. The parameters and the host's side (the key vector,
the draws made, the last tick's result, the operations still queued) are no state of the core and stay (log entry
20). -/
def State.resetOp (s : State) : State :=
  { State.reset with
    cfg := s.cfg, keys := s.keys, draws := s.draws, soundOut := s.soundOut, host := s.host }

/-- `load(rom)` (R181): the image to 0x200 upward, then `pc <- 0x0200`; nothing else (D17). -/
def State.load (s : State) (rom : List Byte) : State :=
  (s.writeSeq loadOffset rom).jump (BitVec.ofNat 16 loadOffset)

/-- One timer's decrement: toward 0, never below (R167). -/
def tickDown (t : Byte) : Byte := if t = 0 then 0 else t - 1

/-- `tick_timers()` (R167): both timers decrement; the result is whether `ST` was above 0 before. -/
def State.tickTimers (s : State) : Bool × State :=
  (decide (s.st.toNat > 0), (s.setDt (tickDown s.dt)).setSt (tickDown s.st))

/-- The tick with its result handed to the host (R172; log entry 3). -/
def State.tickOp (s : State) : State := { s.tickTimers.2 with soundOut := some s.tickTimers.1 }

/-- The argument of `step` (R80): the key vector, constant for the whole step. -/
def State.latchKeys (s : State) (keys : KeyVector) : State := { s with keys := keys }

/-- The operation the host issues next and the state with it taken from the queue. DESIGN CHOICE (log entry 2): with
nothing queued the host issues `step` with the key vector of the last one. -/
def State.nextOp (s : State) : HostOp × State :=
  match s.host with
  | [] => (.step s.keys, s)
  | op :: rest => (op, { s with host := rest })

end Sys2Proof.Machine
end

