-- ==== Sys2Proof/Machine/Step.lean ====
section
/-! DEFINITION. One transition of the machine: the host's next operation (00_scope.md R9, 60_exceptions.md R164), and
the `step` operation (40_step_and_fetch.md R80 to R83). -/

namespace Sys2Proof.Machine

/-- `Execute(op)` (R83): the one instruction the word selects, or nothing (R70). -/
def execute (op : Word) (s : State) : Host.Outcome State Fault Refusal :=
  match decode op with
  | .ok i => exec i s
  | .error r => execUnrecognised r s

/-- `step(keys)` (R80): in the wait, one scan of the keys and no fetch; else one fetch and one instruction. -/
def stepOp (keys : KeyVector) (s : State) : Host.Outcome State Fault Refusal :=
  match s.wait with
  | .awaitingKey r => .next ((s.latchKeys keys).awaitStep r)
  | .running => execute (s.latchKeys keys).fetch.1 (s.latchKeys keys).fetch.2

/-- One host operation (R9, R164). -/
def applyOp (op : HostOp) (s : State) : Host.Outcome State Fault Refusal :=
  match op with
  | .reset => .next s.resetOp
  | .load rom => .next (s.load rom)
  | .tickTimers => .next s.tickOp
  | .step keys => stepOp keys s

/-- One step of the model: the operation the host issues next. With nothing queued that is the core's `step`. -/
def step (s : State) : Host.Outcome State Fault Refusal := applyOp s.nextOp.1 s.nextOp.2

/-- The state with a table row's word stored where the next fetch reads it, most significant byte first (R44), so that
the very next `step` fetches and runs it: nothing queued, not waiting for a key, `pc` inside memory (log entry 25). -/
def State.withFetchWord (s : State) (nbits w : Nat) : State :=
  let op := tableWord nbits w
  ({ s with host := [], wait := .running }.jump s.fetchPoint).writeSeq s.fetchPoint.toNat [wordHi op, wordLo op]

end Sys2Proof.Machine
end

