-- ==== Sys2Proof/Machine/Assembly.lean ====
section
/-! DEFINITION. The text of a program in the spec's own notation (30_encoding.md R71, R72; D19): names of mnemonics and
registers, numerals, labels, the directive `DB`, and the image a text stands for. No step of the machine reads it; the
machine sees bytes only (log entry 28). -/

namespace Sys2Proof

/-! ## Words of a line -/

/-- The name of a mnemonic, as the opcode map spells it (R65, R71). -/
def Mnemonic.name : Mnemonic → String
  | .CLS => "CLS" | .RET => "RET" | .JP => "JP" | .CALL => "CALL" | .SE => "SE" | .SNE => "SNE" | .SER => "SER"
  | .LD => "LD" | .ADD => "ADD" | .MOV => "MOV" | .OR => "OR" | .AND => "AND" | .XOR => "XOR" | .ADDC => "ADDC"
  | .SUB => "SUB" | .SHR => "SHR" | .SUBN => "SUBN" | .SHL => "SHL" | .SNER => "SNER" | .LDI => "LDI"
  | .JP0 => "JP0" | .RND => "RND" | .DRW => "DRW" | .SKP => "SKP" | .SKNP => "SKNP" | .LDDT => "LDDT"
  | .LDK => "LDK" | .STDT => "STDT" | .STST => "STST" | .ADDI => "ADDI" | .FONT => "FONT" | .BCD => "BCD"
  | .STM => "STM" | .LDM => "LDM"

/-- Every mnemonic once, in the order of R65. -/
def Mnemonic.all : List Mnemonic :=
  [.CLS, .RET, .JP, .CALL, .SE, .SNE, .SER, .LD, .ADD, .MOV, .OR, .AND, .XOR, .ADDC, .SUB, .SHR, .SUBN, .SHL] ++
  [.SNER, .LDI, .JP0, .RND, .DRW, .SKP, .SKNP, .LDDT, .LDK, .STDT, .STST, .ADDI, .FONT, .BCD, .STM, .LDM]

/-- The mnemonic of a name, if it is one. -/
def Mnemonic.ofName (cs : List Char) : Option Mnemonic := Mnemonic.all.find? fun m => m.name.toList == cs

/-- The pieces of a text between the separators. -/
def splitText (sep : Char) : List Char → List (List Char)
  | [] => [[]]
  | c :: cs =>
    if c = sep then [] :: splitText sep cs
    else
      match splitText sep cs with
      | [] => [[c]]
      | w :: ws => (c :: w) :: ws

/-- A text without the spaces around it. DESIGN CHOICE (log entry 28): a space is the only blank. -/
def trimText (cs : List Char) : List Char := ((cs.dropWhile (· == ' ')).reverse.dropWhile (· == ' ')).reverse

/-- The value of a hexadecimal digit; DESIGN CHOICE (log entry 28): in either case. -/
def digitValue (c : Char) : Option Nat :=
  if 48 ≤ c.toNat ∧ c.toNat ≤ 57 then some (c.toNat - 48)
  else if 65 ≤ c.toNat ∧ c.toNat ≤ 70 then some (c.toNat - 55)
  else if 97 ≤ c.toNat ∧ c.toNat ≤ 102 then some (c.toNat - 87)
  else none

/-- The value of a row of digits of a base, continuing from `acc`. -/
def digitsValue (base acc : Nat) : List Char → Option Nat
  | [] => some acc
  | c :: cs => (digitValue c).bind fun d => if d < base then digitsValue base (acc * base + d) cs else none

/-- An unsigned numeral, `0x..` or decimal (R71). -/
def numeralValue : List Char → Option Nat
  | [] => none
  | '0' :: 'x' :: d :: ds => digitsValue 16 0 (d :: ds)
  | d :: ds => digitsValue 10 0 (d :: ds)

/-- The register number that a text names: `V` and one hexadecimal digit (R71). -/
def registerNumber : List Char → Option Nat
  | ['V', c] => digitValue c
  | _ => none

/-- A name of a label. DESIGN CHOICE (log entry 28; R71 says only `a name`): a letter or underscore, then letters,
digits and underscores, but not the name of a register, so that every label can be used where it is defined. -/
def isLabelName (cs : List Char) : Bool :=
  match cs with
  | [] => false
  | c :: rest =>
    (c.isAlpha || c == '_') && (rest.all fun d => d.isAlphanum || d == '_') && (registerNumber cs).isNone

/-! ## Operands and lines -/

/-- An operand as written: a register `V0` to `VF`, a numeral, or a label (R71). -/
inductive AsmOperand where
  | reg (n : Nat)
  | num (n : Nat)
  | label (name : List Char)
  deriving DecidableEq, Repr

/-- The operand that a text writes: a register, else a numeral, else a label (R71). The three exclude each other: a
numeral begins with a digit, and no label has a register's name (`isLabelName`; DESIGN CHOICE, log entry 28). -/
def AsmOperand.parse (cs : List Char) : Option AsmOperand :=
  match registerNumber cs with
  | some r => some (.reg r)
  | none =>
    match numeralValue cs with
    | some n => some (.num n)
    | none => if isLabelName cs then some (.label cs) else none

/-- What a line holds: a label, an instruction, or the directive `DB` (R71, R72). -/
inductive SourceItem where
  | label (name : List Char)
  | instr (m : Mnemonic) (operands : List AsmOperand)
  | db (operands : List AsmOperand)
  deriving DecidableEq, Repr

/-- The operands after a mnemonic, separated by commas. -/
def parseOperands (cs : List Char) : Option (List AsmOperand) :=
  if cs = [] then some [] else (splitText ',' cs).mapM fun w => AsmOperand.parse (trimText w)

/-- A line without its label: an instruction (R71) or `DB b, b, ...` (R72). DESIGN CHOICE (log entry 28), where R71
and R72 are silent: a line with nothing on it is accepted and places nothing, and so is a `DB` with no bytes. -/
def parseStatement (cs : List Char) : Option (List SourceItem) :=
  let word := (trimText cs).takeWhile (· != ' ')
  let rest := trimText ((trimText cs).dropWhile (· != ' '))
  if word = [] then some []
  else if word = "DB".toList then (parseOperands rest).map fun ops => [.db ops]
  else (Mnemonic.ofName word).bind fun m => (parseOperands rest).map fun ops => [.instr m ops]

/-- One line: a name followed by a colon is a label (R71). DESIGN CHOICE (log entry 28), where R71 is silent: a label
may stand alone on its line, and a line with two labels is refused. -/
def parseLine (cs : List Char) : Option (List SourceItem) :=
  match splitText ':' cs with
  | [stmt] => parseStatement stmt
  | [name, stmt] =>
    if isLabelName (trimText name) then (parseStatement stmt).map fun is => .label (trimText name) :: is else none
  | _ => none

/-! ## Labels and the image -/

/-- How many bytes of the image an item takes: 2 for an instruction, one for each value of `DB`. -/
def SourceItem.size : SourceItem → Nat
  | .label _ => 0
  | .instr _ _ => 2
  | .db ops => ops.length

/-- How many bytes of the image a list of items takes. -/
def sourceSize : List SourceItem → Nat
  | [] => 0
  | i :: is => i.size + sourceSize is

/-- The labels of a program with the byte address of what follows each, from address `a` on (R71). -/
def labelsFrom (a : Nat) : List SourceItem → List (List Char × Nat)
  | [] => []
  | .label l :: is => (l, a) :: labelsFrom a is
  | i :: is => labelsFrom (a + i.size) is

/-- The labels of a program: the first byte of the image is at 0x200 (R71). -/
def programLabels (items : List SourceItem) : List (List Char × Nat) := labelsFrom 0x200 items

/-- The value of an operand where a register (`isReg`) or a number is expected. DESIGN CHOICE (log entry 28): a label
may be written wherever a number may; its address must then fit the field. -/
def AsmOperand.value (labels : List (List Char × Nat)) (isReg : Bool) : AsmOperand → Option Nat
  | .reg n => if isReg then some n else none
  | .num n => if isReg then none else some n
  | .label l => if isReg then none else labels.lookup l

/-- Which operands of a format are registers (R61, R71). -/
def Format.registers : Format → List Bool
  | .FIXED => []
  | .NNN => [false]
  | .XNN => [true, false]
  | .XY => [true, true]
  | .XYN => [true, true, false]
  | .X => [true]

/-- The values of a line's operands, or none where their number or kinds are not the format's. -/
def operandValues (labels : List (List Char × Nat)) : List Bool → List AsmOperand → Option (List Nat)
  | [], [] => some []
  | k :: ks, o :: os => (o.value labels k).bind fun v => (operandValues labels ks os).map (v :: ·)
  | _, _ => none

/-- The line with its labels replaced by their addresses; a label itself places nothing. -/
def SourceItem.resolve (labels : List (List Char × Nat)) : SourceItem → Option (List AsmItem)
  | .label _ => some []
  | .instr m ops => (operandValues labels m.format.registers ops).map fun vs => [.line ⟨m, vs⟩]
  | .db ops => (ops.mapM (AsmOperand.value labels false)).map fun vs => [.db vs]

/-- The image of a program (R71, R72): none where a line is ill formed, a label is missing, or (DESIGN CHOICE, log
entry 28) one name labels two places. -/
def sourceImage (items : List SourceItem) : Option (List Byte) :=
  if ((programLabels items).map Prod.fst).Nodup then
    (items.mapM (SourceItem.resolve (programLabels items))).bind fun ls => programImage ls.flatten
  else none

/-- The image of a program text, one instruction per line (R71). -/
def textImage (text : String) : Option (List Byte) :=
  ((splitText '\n' text.toList).mapM parseLine).bind fun ls => sourceImage ls.flatten

end Sys2Proof
end

