-- ==== Sys2Proof/Safety.lean ====
section
/-! DEFINITION. What counts as a good state, and the words the claims are said in: the machine's invariant, the parts of
the state an instruction may write, and which display cells a sprite covers. -/

namespace Sys2Proof.Machine

/-- The invariant of the machine: memory is in its canonical form, so that equal memories are equal lists. Every other
bound of 10_state.md (`SP` at most 16, sixteen registers, the 64 by 32 grid, `r` below 16) is carried by the type of
its field. -/
abbrev State.Inv (s : State) : Prop := Memory.wf s.cfg.font s.mem

/-- The parts of the state that an instruction may write. -/
structure Writes where
  regs : List Reg := []
  pc : Bool := false
  idx : Bool := false
  dt : Bool := false
  st : Bool := false
  stack : Bool := false
  wait : Bool := false
  mem : Bool := false
  fb : Bool := false
  draws : Bool := false
  deriving DecidableEq, Repr

/-- From `s` to `t` nothing has changed but the parts `w`: every register outside `w.regs` (so the flag too, unless
`w.regs` holds register 15), and every other part that `w` does not name; memory is compared byte by byte at every
address. The parameters, the key vector, the last tick's result and the queue never change. -/
structure Frame (w : Writes) (s t : State) : Prop where
  regs : ∀ r, r ∉ w.regs → t.reg r = s.reg r
  pc : w.pc = false → t.pc = s.pc
  idx : w.idx = false → t.idx = s.idx
  dt : w.dt = false → t.dt = s.dt
  st : w.st = false → t.st = s.st
  sp : w.stack = false → t.sp = s.sp
  stk : w.stack = false → t.stk = s.stk
  wait : w.wait = false → t.wait = s.wait
  mem : w.mem = false → ∀ a, t.readByte a = s.readByte a
  fb : w.fb = false → t.fb = s.fb
  draws : w.draws = false → t.draws = s.draws
  cfg : t.cfg = s.cfg
  keys : t.keys = s.keys
  soundOut : t.soundOut = s.soundOut
  host : t.host = s.host

/-- The core as `reset` constructs it (R25, R180), whatever the parameters and the host's side are. -/
structure State.Constructed (t : State) : Prop where
  regs : ∀ r, t.reg r = 0
  pc : t.pc = 0x0200
  idx : t.idx = 0
  dt : t.dt = 0
  st : t.st = 0
  sp : t.sp.val = 0
  stk : ∀ k : Fin 16, t.stk[k] = 0
  wait : t.wait = .running
  font : ∀ a, (h : a < 80) → t.readByte a = t.cfg.font[a]
  zero : ∀ a, 80 ≤ a → t.readByte a = 0
  fb : ∀ cy cx, t.fb.cell cy cx = false

/-- `n` pops, the values in the order they come off the stack, and the state they leave. -/
def State.popN (s : State) (n : Nat) : List Word × State :=
  match n with
  | 0 => ([], s)
  | n + 1 => (s.pop.1 :: (s.pop.2.popN n).1, (s.pop.2.popN n).2)

/-- Display cell (`cy`, `cx`) lies under a set pixel of the sprite of `n` rows at `I` whose anchor is column `x0`, row
`y0` (R141, R142). -/
def State.covers (s : State) (x0 y0 n cy cx : Nat) : Prop :=
  y0 ≤ cy ∧ cy < y0 + n ∧ x0 ≤ cx ∧ cx < x0 + 8 ∧ (s.readByte (s.base + (cy - y0))).getLsbD (7 - (cx - x0)) = true

end Sys2Proof.Machine

namespace Sys2Proof

/-- The instruction writes its flag to `x[15]` on every execution (R12). -/
def Instr.writesFlag : Instr → Bool
  | .addc _ _ | .sub _ _ | .shr _ _ | .subn _ _ | .shl _ _ | .drw _ _ _ => true
  | _ => false

/-- The registers that an instruction's text names as its destination (R12, R136). -/
def Instr.destinations : Instr → List Reg
  | .ld x _ | .add x _ | .mov x _ | .or x _ | .and x _ | .xor x _ | .addc x _ | .sub x _ | .shr x _ | .subn x _
  | .shl x _ | .rnd x _ | .lddt x => [x]
  | .ldm x => (List.finRange 16).filter fun r => decide (r.val ≤ x.val)
  | _ => []

end Sys2Proof
end

