-- ==== Sys2Proof/Certificates/Slice0/Obligations.lean ====
section
/-! DEFINITION. The statements for the provers. A docstring names the rule a statement formalises, and, where a clause
rests on a decision D<n> of 92_eei_decisions.md or on general knowledge, says so: that clause is a choice recorded by
the spec and followed by the model, not a sentence of the source. -/

open Sys2Proof Sys2Proof.Machine

/-! ## Encoding -/

/-- The decode table of 95_test_vectors.md section 2.1. The numerals other than 00E0, class D and FX0A are general
knowledge (D24, log entry 8). -/
def Obligations.SampleWordsDecodeAsTheSpecSays : Prop :=
  decode 0x00E0 = .ok .cls ∧ decode 0x00EE = .ok .ret ∧ decode 0x0000 = .error .class0 ∧
  decode 0x01E0 = .error .class0 ∧ decode 0x1ABC = .ok (.jp 0xABC) ∧ decode 0x5120 = .ok (.ser 1 2) ∧
  decode 0x5121 = .error .class5 ∧ decode 0x8AB4 = .ok (.addc 10 11) ∧ decode 0x8AB8 = .error .class8 ∧
  decode 0x8ABE = .ok (.shl 10 11) ∧ decode 0x9AB1 = .error .class9 ∧ decode 0xD125 = .ok (.drw 1 2 5) ∧
  decode 0xE29E = .ok (.skp 2) ∧ decode 0xE29F = .error .classE ∧ decode 0xF30A = .ok (.ldk 3) ∧
  decode 0xF365 = .ok (.ldm 3) ∧ decode 0xF366 = .error .classF

/-- Decoding the two bytes of an encoded instruction, and its word, gives the instruction back, for every instruction
with every operand (R60, R64, R65; numerals: D24, log entry 8). -/
def Obligations.EncodedInstructionDecodesToItself : Prop :=
  ∀ i : Instr, decodeBytes (wordHi (encode i)) (wordLo (encode i)) = .ok i ∧ decode (encode i) = .ok i

/-- Each recognised word has one instruction, and that instruction's encoding is the word: no bit is dropped (R65; numerals: D24, log
entry 8). -/
def Obligations.RecognisedWordIsItsInstructionsEncoding : Prop :=
  ∀ (op : Word) (i : Instr), decode op = .ok i → encode i = op

/-- A word selects a row of the opcode map (`op and mask = match`, R64, R65) exactly when the decoder gives that row's
instruction (numerals: D24, log entry 8). -/
def Obligations.DecoderFollowsTheOpcodeMap : Prop :=
  ∀ (op : Word) (m : Mnemonic), m.selects op = true ↔ ∃ i, decode op = .ok i ∧ i.mnemonic = m

/-- The rows of the opcode map are mutually exclusive (R64; numerals: D24, log entry 8). -/
def Obligations.OpcodeRowsAreMutuallyExclusive : Prop :=
  ∀ (op : Word) (m m' : Mnemonic), m.selects op = true → m'.selects op = true → m = m'

/-- The six fields are the slices of R62, read as unsigned numbers, and overlap as it says. -/
def Obligations.WordFieldsAreItsSlices : Prop :=
  ∀ op : Word,
    (opClass op).toNat = op.toNat / 4096 ∧ (opX op).val = op.toNat / 256 % 16 ∧
    (opY op).val = op.toNat / 16 % 16 ∧ (opN op).val = op.toNat % 16 ∧
    (opNN op).toNat = op.toNat % 256 ∧ (opNNN op).toNat = op.toNat % 4096 ∧
    (opNN op).toNat = (opY op).val * 16 + (opN op).val ∧
    (opNNN op).toNat = (opX op).val * 256 + (opY op).val * 16 + (opN op).val

/-- The rejected words are exactly the six kinds of R70's table (exact match: D20, log entry 27; numerals: D24, log
entry 8). -/
def Obligations.RejectedWordsAreTheUnrecognisedOnes : Prop :=
  ∀ op : Word,
    (decode op = .error .class0 ↔ op.toNat / 4096 = 0 ∧ op ≠ 0x00E0 ∧ op ≠ 0x00EE) ∧
    (decode op = .error .class5 ↔ op.toNat / 4096 = 5 ∧ op.toNat % 16 ≠ 0) ∧
    (decode op = .error .class8 ↔ op.toNat / 4096 = 8 ∧ op.toNat % 16 ∈ [8, 9, 10, 11, 12, 13, 15]) ∧
    (decode op = .error .class9 ↔ op.toNat / 4096 = 9 ∧ op.toNat % 16 ≠ 0) ∧
    (decode op = .error .classE ↔ op.toNat / 4096 = 14 ∧ op.toNat % 256 ∉ [0x9E, 0xA1]) ∧
    (decode op = .error .classF ↔
      op.toNat / 4096 = 15 ∧ op.toNat % 256 ∉ [0x07, 0x0A, 0x15, 0x18, 0x1E, 0x29, 0x33, 0x55, 0x65])

/-- R71's lines: every instruction's line assembles to it, and a line assembles exactly when it is well formed (the
syntax is the spec's own, D19; log entry 28). -/
def Obligations.WellFormedLinesAssemble : Prop :=
  (∀ i : Instr, assemble i.asmLine = some i) ∧ ∀ l : AsmLine, (assemble l).isSome = l.wellFormed

/-- A label stands for the byte address of what follows it, counted from 0x200 for the first byte of the image, and the
items before it take exactly that many bytes of an image (R71, R72; the notation is the spec's own, D19; log entry 28).
-/
def Obligations.LabelStandsForTheAddressOfWhatFollows : Prop :=
  (∀ (pre post : List SourceItem) (l : List Char), l ∉ (programLabels pre).map Prod.fst →
    (programLabels (pre ++ .label l :: post)).lookup l = some (0x200 + sourceSize pre)) ∧
  ∀ (items : List SourceItem) (bytes : List Byte), sourceImage items = some bytes → bytes.length = sourceSize items

/-! ## The step operation -/

/-- When the host's next operation is `step(keys)`, the core is `Running` and the two bytes at `pc` decode to `i`, one
step is `exec i` with that key vector and `pc` past the word (R80, R81, R83; the advance is modulo 65536 by D3, log
entry 10; the queue is log entry 2). -/
def Obligations.StepRunsTheDecodedInstruction : Prop :=
  ∀ (s s0 : State) (keys : KeyVector) (i : Instr), s.nextOp = (.step keys, s0) → s0.wait = .running →
    decodeBytes (s0.readByte s0.pc.toNat) (s0.readByte (s0.pc.toNat + 1)) = .ok i →
    step s = exec i { s0 with keys := keys, pc := s0.pc + 2 }

/-- An unrecognised word is a no-op: `pc` advances by 2 and nothing else changes (R70, by decision D2; log entry 7). -/
def Obligations.UnrecognisedWordOnlyAdvancesPc : Prop :=
  ∀ (s s0 : State) (keys : KeyVector) (r : Reject), s.nextOp = (.step keys, s0) → s0.wait = .running →
    decodeBytes (s0.readByte s0.pc.toNat) (s0.readByte (s0.pc.toNat + 1)) = .error r →
    step s = .next { s0 with keys := keys, pc := s0.pc + 2 }

/-- `Fetch()` (R81): most significant byte first, an out-of-range byte is 0, `pc` advances by 2 modulo 65536 (D3, log
entry 10) and nothing else changes; `pc + 1` is not wrapped (D4, log entry 11). -/
def Obligations.FetchReadsTwoBytesAndAdvances : Prop :=
  ∀ s : State,
    s.fetch.1.toNat = (s.readByte s.pc.toNat).toNat * 256 + (s.readByte (s.pc.toNat + 1)).toNat ∧
    (4096 ≤ s.pc.toNat → s.fetch.1 = 0) ∧
    (s.pc.toNat = 4095 → s.fetch.1.toNat = (s.readByte 4095).toNat * 256) ∧
    s.fetch.2.pc.toNat = (s.pc.toNat + 2) % 65536 ∧ Frame { pc := true } s s.fetch.2

/-- Totality (R85, R160): every instruction in every state, and every step of the machine, answers a next state; none
faults, is refused or is stuck (unrecognised words by D2, log entry 7). -/
def Obligations.EveryStepAnswersANextState : Prop :=
  (∀ (i : Instr) (s : State), ∃ t, exec i s = .next t) ∧ ∀ s : State, ∃ t, step s = .next t

/-- The host's operations are taken in order, one a step; with none queued the host issues `step` with the last key
vector. The model's choice (log entry 2), over R9 and R164. -/
def Obligations.HostOperationsAreTakenInOrder : Prop :=
  ∀ s : State,
    (∀ op rest, s.host = op :: rest → step s = applyOp op { s with host := rest }) ∧
    (s.host = [] → step s = applyOp (.step s.keys) s)

/-- The keyboard-wait state machine: the transition table of R154, row by row (that `load` and `tick_timers` leave
`WAIT` alone: D17 and D21, log entries 19 and 26). -/
def Obligations.WaitStateFollowsItsTransitionTable : Prop :=
  ∀ s t : State, step s = .next t →
    (∀ keys s0, s.nextOp = (.step keys, s0) →
      (∀ x, s.wait = .running → decode s0.fetchWord = .ok (.ldk x) → t.wait = .awaitingKey x) ∧
      (s.wait = .running → (∀ x, decode s0.fetchWord ≠ .ok (.ldk x)) → t.wait = .running) ∧
      (∀ r, s.wait = .awaitingKey r → (∃ k : Fin 16, keys[k] = true) → t.wait = .running) ∧
      (∀ r, s.wait = .awaitingKey r → (∀ k : Fin 16, keys[k] = false) → t.wait = .awaitingKey r)) ∧
    (∀ s0, s.nextOp = (.tickTimers, s0) → t.wait = s.wait) ∧
    (∀ rom s0, s.nextOp = (.load rom, s0) → t.wait = s.wait) ∧
    (∀ s0, s.nextOp = (.reset, s0) → t.wait = .running)

/-- `AwaitStep` with a key down (R155): the lowest key's index is written to `x[r]`, the wait ends, nothing is fetched
and nothing else changes (ascending scan: D9, log entry 14). -/
def Obligations.WaitingStepTakesTheLowestKey : Prop :=
  ∀ (s s0 : State) (keys : KeyVector) (r : Reg) (k : Fin 16), s.nextOp = (.step keys, s0) →
    s0.wait = .awaitingKey r → keys[k] = true → (∀ j : Fin 16, j < k → keys[j] = false) →
    ∃ t, step s = .next t ∧ (t.reg r).toNat = k.val ∧ t.wait = .running ∧
      Frame { regs := [r], wait := true } { s0 with keys := keys } t

/-- `AwaitStep` with no key down changes no state of the core at all (R155). Only the model's record of the step's
argument differs (log entry 1). -/
def Obligations.WaitingStepWithoutKeyChangesNothing : Prop :=
  ∀ (s s0 : State) (keys : KeyVector) (r : Reg), s.nextOp = (.step keys, s0) →
    s0.wait = .awaitingKey r → (∀ k : Fin 16, keys[k] = false) → step s = .next { s0 with keys := keys }

/-- A jump to its own address is a fixed point of the step (R91, R191; numeral of `JP`: D24, log entry 8; empty queue:
log entry 2). -/
def Obligations.JumpToItselfChangesNothing : Prop :=
  ∀ (s : State) (nnn : Addr12), s.host = [] → s.wait = .running → s.pc.toNat = nnn.toNat →
    decodeBytes (s.readByte s.pc.toNat) (s.readByte (s.pc.toNat + 1)) = .ok (.jp nnn) → step s = .next s

/-- With `pc` at 4096 or more a step only walks `pc` upward by 2, modulo 65536 (R13, R40, R70; D2, D3; log entries 7
and 10; empty queue: log entry 2). -/
def Obligations.StepOutsideMemoryOnlyAdvancesPc : Prop :=
  ∀ s : State, s.host = [] → s.wait = .running → 4096 ≤ s.pc.toNat →
    ∃ t, step s = .next t ∧ t.pc.toNat = (s.pc.toNat + 2) % 65536 ∧ Frame { pc := true } s t

/-! ## Invariants and rules of the whole machine -/

/-- Every step of the machine, whichever operation the host issues, keeps memory in its canonical form. The form is the
model's (log entry 24). -/
def Obligations.StepKeepsMemoryCanonical : Prop :=
  ∀ s t : State, s.Inv → step s = .next t → t.Inv

/-- The state after reset has the invariant (log entry 24). -/
def Obligations.ResetStateIsCanonical : Prop := State.reset.Inv

/-- A canonical memory is determined by the bytes it reads as: equal memories are equal data (log entry 24). -/
def Obligations.CanonicalMemoryIsDeterminedByItsBytes : Prop :=
  ∀ (font : Font) (m m' : Memory), Memory.wf font m → Memory.wf font m' →
    (∀ a, Memory.read font m a = Memory.read font m' a) → m = m'

/-- The parameters `FONT` and `SHIFT_SRC` are constant (R3): no step writes them. -/
def Obligations.ParametersNeverChange : Prop :=
  ∀ s t : State, step s = .next t → t.cfg = s.cfg

/-- Which instructions write which state (R12 to R22 of 10_state.md): the display only `CLS` and `DRW`, memory only
`BCD` and `STM`, `I` only `LDI`, `ADDI`, `FONT`, `DT` only `STDT`, `ST` only `STST`, the stack only `CALL` and `RET`,
`WAIT` only `LDK`, `pc` (after the fetch) only control flow (`I` unchanged by the transfers: D10, log entry 15). -/
def Obligations.OnlyTheNamedInstructionsWrite : Prop :=
  ∀ (i : Instr) (s t : State), exec i s = .next t →
    (t.fb ≠ s.fb → i.mnemonic ∈ [.CLS, .DRW]) ∧
    ((∃ a, t.readByte a ≠ s.readByte a) → i.mnemonic ∈ [.BCD, .STM]) ∧
    (t.idx ≠ s.idx → i.mnemonic ∈ [.LDI, .ADDI, .FONT]) ∧
    (t.dt ≠ s.dt → i.mnemonic = .STDT) ∧
    (t.st ≠ s.st → i.mnemonic = .STST) ∧
    (t.sp ≠ s.sp ∨ t.stk ≠ s.stk → i.mnemonic ∈ [.CALL, .RET]) ∧
    (t.wait ≠ s.wait → i.mnemonic = .LDK) ∧
    (t.pc ≠ s.pc → i.mnemonic ∈ [.RET, .JP, .CALL, .JP0, .SE, .SNE, .SER, .SNER, .SKP, .SKNP])

/-- The flag rule R12: the six flag instructions leave 0 or 1 in `x[15]` on every execution; every other instruction
leaves `x[15]` alone unless it names it as its destination; no instruction writes any other register than its
destinations (D6 and D12, log entries 12 and 17). -/
def Obligations.FlagIsWrittenByItsSixInstructionsOnly : Prop :=
  ∀ (i : Instr) (s t : State), exec i s = .next t →
    (i.writesFlag = true → t.reg 15 = 0 ∨ t.reg 15 = 1) ∧
    (i.writesFlag = false → 15 ∉ i.destinations → t.reg 15 = s.reg 15) ∧
    ∀ r : Reg, r ≠ 15 → r ∉ i.destinations → t.reg r = s.reg r

/-- No instruction reads `ST` (R16): running it from two states that differ in `ST` alone gives states that differ in
`ST` alone, and in nothing where the instruction is `STST`. -/
def Obligations.NoInstructionReadsTheSoundTimer : Prop :=
  ∀ (i : Instr) (s t : State) (v : Byte), exec i s = .next t →
    (i.mnemonic ≠ .STST → exec i { s with st := v } = .next { t with st := v }) ∧
    (i.mnemonic = .STST → exec i { s with st := v } = .next t)

/-- Only `SKP` and `SKNP` read the key vector (R23): any other instruction does the same whatever keys are down. -/
def Obligations.OnlyKeySkipsReadTheKeys : Prop :=
  ∀ (i : Instr) (s t : State) (keys : KeyVector), i.mnemonic ≠ .SKP → i.mnemonic ≠ .SKNP → exec i s = .next t →
    exec i { s with keys := keys } = .next { t with keys := keys }

/-! ## Reset, load, timers -/

/-- The state after reset, field by field (R25; `STK` and the display by D14 and D13, log entry 18; the parameters' defaults are
log entries 5 and 6 and no clause names their values). -/
def Obligations.ResetStateHasTheSpecsValues : Prop := State.reset.Constructed

/-- `reset` at any time returns the core to the constructed state (R180; D13, D14, D18; log entries 18 and 20); the
parameters and the host's side stay (the model's choice, log entry 20). -/
def Obligations.ResetOperationReconstructsTheCore : Prop :=
  ∀ s : State, ∃ t, applyOp .reset s = .next t ∧ t.Constructed ∧ t.cfg = s.cfg ∧ t.keys = s.keys ∧
    t.draws = s.draws ∧ t.soundOut = s.soundOut ∧ t.host = s.host

/-- `load(rom)` (R181): byte `k` goes to 0x200 + k where that is in memory, the rest is dropped, `pc` is 0x0200, and
nothing else changes (D17, D28; log entry 19). -/
def Obligations.LoadCopiesTheImageAndSetsPc : Prop :=
  ∀ (s : State) (rom : List Byte), ∃ t, applyOp (.load rom) s = .next t ∧ t.pc = 0x0200 ∧
    (∀ k, (h : k < rom.length) → 0x200 + k < 4096 → t.readByte (0x200 + k) = rom[k]) ∧
    (∀ a, (a < 0x200 ∨ 0x200 + rom.length ≤ a) → t.readByte a = s.readByte a) ∧
    Frame { pc := true, mem := true } s t

/-- After `load` the first fetch reads `rom[0] ++ rom[1]` (R182). -/
def Obligations.LoadedImageIsFetchedFirst : Prop :=
  ∀ (s : State) (b0 b1 : Byte) (rest : List Byte), ∃ t, applyOp (.load (b0 :: b1 :: rest)) s = .next t ∧
    t.fetch.1.toNat = b0.toNat * 256 + b1.toNat

/-- `tick_timers()` (R167): both timers go down by 1 with a floor at 0, the result is whether `ST` was above 0 before,
and nothing else changes. That the result is found in the field `soundOut` is the model's choice (log entry 3). -/
def Obligations.TickDecrementsBothTimers : Prop :=
  ∀ s : State, ∃ t, applyOp .tickTimers s = .next t ∧
    t.dt.toNat = (if s.dt.toNat > 0 then s.dt.toNat - 1 else 0) ∧
    t.st.toNat = (if s.st.toNat > 0 then s.st.toNat - 1 else 0) ∧
    t.soundOut = some (decide (s.st.toNat > 0)) ∧
    Frame { dt := true, st := true } s { t with soundOut := s.soundOut }

/-- A timer set to `n` reaches 0 after exactly `n` ticks and stays there, and the first `n` ticks report sound (R167,
R168; R152, whose instruction is general knowledge by D25, log entry 9). That a tick's report is found in the field
`soundOut` is the model's choice (log entry 3). -/
def Obligations.TimerRunsDownInExactlyItsCount : Prop :=
  ∀ (s : State) (k : Nat),
    (State.tickOp^[k] s).dt.toNat = s.dt.toNat - k ∧ (State.tickOp^[k] s).st.toNat = s.st.toNat - k ∧
    (State.tickOp^[k + 1] s).soundOut = some (decide (k < s.st.toNat))

/-! ## Memory and stack -/

/-- `MemRead` and `MemWrite` (R40, R41): outside the 4096 bytes a read is 0 and a write has no effect; inside, every
address takes the byte written and no other address changes. -/
def Obligations.ReadsAndWritesAreBoundsChecked : Prop :=
  ∀ (s : State) (a : Nat) (v : Byte),
    (4096 ≤ a → s.readByte a = 0) ∧ (4096 ≤ a → s.writeByte a v = s) ∧
    (a < 4096 → (s.writeByte a v).readByte a = v) ∧
    (∀ b, b ≠ a → (s.writeByte a v).readByte b = s.readByte b) ∧ Frame { mem := true } s (s.writeByte a v)

/-- `WriteSeq` (R42): each byte is checked on its own; the in-bounds bytes land, the rest are dropped. -/
def Obligations.WriteSequenceChecksEachByte : Prop :=
  ∀ (s : State) (start : Nat) (bytes : List Byte),
    (∀ k, (h : k < bytes.length) → start + k < 4096 → (s.writeSeq start bytes).readByte (start + k) = bytes[k]) ∧
    (∀ a, (a < start ∨ start + bytes.length ≤ a ∨ 4096 ≤ a) → (s.writeSeq start bytes).readByte a = s.readByte a) ∧
    Frame { mem := true } s (s.writeSeq start bytes)

/-- `Push` and `Pop` (R17, R18): the top is `STK[SP-1]`; a push on a full stack is dropped; a pop of an empty one
gives 0 and leaves `SP` 0; a pop leaves its slot (D14, log entry 18). -/
def Obligations.PushAndPopKeepTheStackDiscipline : Prop :=
  ∀ (s : State) (v : Word),
    (s.sp.val < 16 → (s.push v).sp.val = s.sp.val + 1 ∧ (s.push v).pop.1 = v ∧ (s.push v).pop.2.sp = s.sp ∧
      ∀ k : Fin 16, k.val ≠ s.sp.val → (s.push v).stk[k] = s.stk[k]) ∧
    (s.sp.val = 16 → s.push v = s) ∧
    (∀ k : Fin 16, s.sp.val = k.val + 1 → s.pop.1 = s.stk[k] ∧ s.pop.2.sp.val = k.val) ∧
    (s.sp.val = 0 → s.pop.1 = 0 ∧ s.pop.2 = s) ∧ s.pop.2.stk = s.stk ∧
    Frame { stack := true } s (s.push v) ∧ Frame { stack := true } s s.pop.2

/-- Values pushed within the capacity come back in reverse order (R18), and `SP` is as before. -/
def Obligations.StackReturnsPushedValuesInReverse : Prop :=
  ∀ (s : State) (vs : List Word), s.sp.val + vs.length ≤ 16 →
    ((vs.foldl State.push s).popN vs.length).1 = vs.reverse ∧
    ((vs.foldl State.push s).popN vs.length).2.sp = s.sp

/-! ## Control flow -/

/-- `RET` (R90): `pc <- Pop()`; from an empty stack `pc` is 0 (D22, log entry 21). -/
def Obligations.ReturnPopsIntoPc : Prop :=
  ∀ s : State, ∃ t, exec .ret s = .next t ∧
    (∀ k : Fin 16, s.sp.val = k.val + 1 → t.pc = s.stk[k] ∧ t.sp.val = k.val) ∧
    (s.sp.val = 0 → t.pc = 0 ∧ t.sp.val = 0) ∧ t.stk = s.stk ∧ Frame { pc := true, stack := true } s t

/-- `JP nnn` (R91). -/
def Obligations.JumpSetsPcToItsAddress : Prop :=
  ∀ (s : State) (nnn : Addr12), ∃ t, exec (.jp nnn) s = .next t ∧ t.pc.toNat = nnn.toNat ∧
    Frame { pc := true } s t

/-- `CALL nnn` (R92): the advanced `pc` is pushed, or dropped on a full stack, and the jump is taken (D22, log entry
21). -/
def Obligations.CallPushesPcAndJumps : Prop :=
  ∀ (s : State) (nnn : Addr12), ∃ t, exec (.call nnn) s = .next t ∧ t.pc.toNat = nnn.toNat ∧
    (∀ k : Fin 16, s.sp.val = k.val → t.stk[k] = s.pc ∧ t.sp.val = k.val + 1) ∧
    (∀ k : Fin 16, s.sp.val ≠ k.val → t.stk[k] = s.stk[k]) ∧
    (s.sp.val = 16 → t.sp = s.sp) ∧ Frame { pc := true, stack := true } s t

/-- `JP0 nnn` (R93): the sum of the address and `x[0]`, not reduced. -/
def Obligations.IndexedJumpAddsRegisterZero : Prop :=
  ∀ (s : State) (nnn : Addr12), ∃ t, exec (.jp0 nnn) s = .next t ∧
    t.pc.toNat = nnn.toNat + (s.reg 0).toNat ∧ Frame { pc := true } s t

/-- `SE`, `SNE`, `SER`, `SNER` (R94 to R97): `pc` goes 2 further, modulo 65536 (R84; D3, log entry 10), exactly when
the comparison holds. -/
def Obligations.RegisterSkipsCompareAndSkip : Prop :=
  ∀ (s : State) (x y : Reg) (nn : Byte),
    (∃ t, exec (.se x nn) s = .next t ∧ Frame { pc := true } s t ∧
      t.pc.toNat = (s.pc.toNat + if s.reg x = nn then 2 else 0) % 65536) ∧
    (∃ t, exec (.sne x nn) s = .next t ∧ Frame { pc := true } s t ∧
      t.pc.toNat = (s.pc.toNat + if s.reg x = nn then 0 else 2) % 65536) ∧
    (∃ t, exec (.ser x y) s = .next t ∧ Frame { pc := true } s t ∧
      t.pc.toNat = (s.pc.toNat + if s.reg x = s.reg y then 2 else 0) % 65536) ∧
    (∃ t, exec (.sner x y) s = .next t ∧ Frame { pc := true } s t ∧
      t.pc.toNat = (s.pc.toNat + if s.reg x = s.reg y then 0 else 2) % 65536)

/-- `SKP` and `SKNP` (R98 to R100): the skip by the key's level; a code of 16 or more is a key that is up (D8, log
entry 13; D3, log entry 10). -/
def Obligations.KeySkipsTestTheKeyLevel : Prop :=
  ∀ (s : State) (x : Reg),
    (∃ t, exec (.skp x) s = .next t ∧ Frame { pc := true } s t ∧
      (∀ k : Fin 16, (s.reg x).toNat = k.val →
        t.pc.toNat = (s.pc.toNat + if s.keys[k] = true then 2 else 0) % 65536) ∧
      (16 ≤ (s.reg x).toNat → t.pc = s.pc)) ∧
    (∃ t, exec (.sknp x) s = .next t ∧ Frame { pc := true } s t ∧
      (∀ k : Fin 16, (s.reg x).toNat = k.val →
        t.pc.toNat = (s.pc.toNat + if s.keys[k] = true then 0 else 2) % 65536) ∧
      (16 ≤ (s.reg x).toNat → t.pc.toNat = (s.pc.toNat + 2) % 65536))

/-! ## Arithmetic and logic -/

/-- `LD`, `ADD`, `MOV` (R111, R112, R113): the destination's new value; no flag: with X not 15 register 15 is outside
the frame's written registers and unchanged. -/
def Obligations.LoadAddAndMoveWriteTheirDestination : Prop :=
  ∀ (s : State) (x y : Reg) (nn : Byte),
    (∃ t, exec (.ld x nn) s = .next t ∧ t.reg x = nn ∧ Frame { regs := [x] } s t) ∧
    (∃ t, exec (.add x nn) s = .next t ∧ (t.reg x).toNat = ((s.reg x).toNat + nn.toNat) % 256 ∧
      Frame { regs := [x] } s t) ∧
    (∃ t, exec (.mov x y) s = .next t ∧ t.reg x = s.reg y ∧ Frame { regs := [x] } s t)

/-- `OR`, `AND`, `XOR` (R114, R115, R116), bit by bit; `x[15]` is not written unless it is the destination (D12, log
entry 17). -/
def Obligations.LogicOperationsAreBitwise : Prop :=
  ∀ (s : State) (x y : Reg),
    (∃ t, exec (.or x y) s = .next t ∧ Frame { regs := [x] } s t ∧
      ∀ k, (t.reg x).getLsbD k = ((s.reg x).getLsbD k || (s.reg y).getLsbD k)) ∧
    (∃ t, exec (.and x y) s = .next t ∧ Frame { regs := [x] } s t ∧
      ∀ k, (t.reg x).getLsbD k = ((s.reg x).getLsbD k && (s.reg y).getLsbD k)) ∧
    (∃ t, exec (.xor x y) s = .next t ∧ Frame { regs := [x] } s t ∧
      ∀ k, (t.reg x).getLsbD k = xor ((s.reg x).getLsbD k) ((s.reg y).getLsbD k))

/-- `ADDC` (R117): the wrapped sum and the carry; with X = 15 the flag remains (D6, D7; log entry 12). -/
def Obligations.AddWithCarryWritesSumAndCarry : Prop :=
  ∀ (s : State) (x y : Reg), ∃ t, exec (.addc x y) s = .next t ∧
    (x ≠ 15 → (t.reg x).toNat = ((s.reg x).toNat + (s.reg y).toNat) % 256) ∧
    (t.reg 15).toNat = (if (s.reg x).toNat + (s.reg y).toNat > 255 then 1 else 0) ∧
    Frame { regs := [x, 15] } s t

/-- `SUB` and `SUBN` (R118, R120): the wrapped difference into `x[X]` and the no-borrow flag; with X = 15 the flag
remains (D6, D7; log entry 12). -/
def Obligations.SubtractsWriteDifferenceAndNoBorrow : Prop :=
  ∀ (s : State) (x y : Reg),
    (∃ t, exec (.sub x y) s = .next t ∧
      (x ≠ 15 → ((t.reg x).toNat : Int) = (((s.reg x).toNat : Int) - (s.reg y).toNat) % 256) ∧
      (t.reg 15).toNat = (if (s.reg x).toNat ≥ (s.reg y).toNat then 1 else 0) ∧
      Frame { regs := [x, 15] } s t) ∧
    (∃ t, exec (.subn x y) s = .next t ∧
      (x ≠ 15 → ((t.reg x).toNat : Int) = (((s.reg y).toNat : Int) - (s.reg x).toNat) % 256) ∧
      (t.reg 15).toNat = (if (s.reg y).toNat ≥ (s.reg x).toNat then 1 else 0) ∧
      Frame { regs := [x, 15] } s t)

/-- `SHR` and `SHL` (R119, R121) for both values of `SHIFT_SRC` (D5, log entry 5): half or twice the source, and the
bit shifted out; with X = 15 the flag remains (D6, log entry 12). -/
def Obligations.ShiftsWriteResultAndBitShiftedOut : Prop :=
  ∀ (s : State) (x y : Reg) (v : Byte), v = (if s.cfg.shiftSrc = .x then s.reg x else s.reg y) →
    (∃ t, exec (.shr x y) s = .next t ∧ (x ≠ 15 → (t.reg x).toNat = v.toNat / 2) ∧
      (t.reg 15).toNat = v.toNat % 2 ∧ Frame { regs := [x, 15] } s t) ∧
    (∃ t, exec (.shl x y) s = .next t ∧ (x ≠ 15 → (t.reg x).toNat = v.toNat * 2 % 256) ∧
      (t.reg 15).toNat = v.toNat / 128 ∧ Frame { regs := [x, 15] } s t)

/-- `RND` (R122): the drawn byte AND the immediate, one fresh draw, and bits outside `NN` are 0, whatever the draw is
(D15, log entry 4). -/
def Obligations.RandomIsMaskedByTheImmediate : Prop :=
  ∀ (s : State) (x : Reg) (nn : Byte), ∃ t, exec (.rnd x nn) s = .next t ∧
    t.reg x = Config.rnd s.draws &&& nn ∧ t.draws = s.draws + 1 ∧
    (∀ k, nn.getLsbD k = false → (t.reg x).getLsbD k = false) ∧ Frame { regs := [x], draws := true } s t

/-! ## Index register and memory -/

/-- `LDI`, `ADDI`, `FONT` (R130, R131, R133): the new `I`; no flag (D12, log entry 17), no mask in `FONT` (D23, log
entry 21); `LDI` is general knowledge (D25, log entry 9). -/
def Obligations.IndexWritersSetTheIndexRegister : Prop :=
  ∀ (s : State) (x : Reg) (nnn : Addr12),
    (∃ t, exec (.ldi nnn) s = .next t ∧ t.idx.toNat = nnn.toNat ∧ Frame { idx := true } s t) ∧
    (∃ t, exec (.addi x) s = .next t ∧ t.idx.toNat = (s.idx.toNat + (s.reg x).toNat) % 65536 ∧
      Frame { idx := true } s t) ∧
    (∃ t, exec (.font x) s = .next t ∧ t.idx.toNat = (s.reg x).toNat * 5 ∧ Frame { idx := true } s t)

/-- `BCD` (R134): hundreds, tens and ones at `I`, `I + 1`, `I + 2`, each where that address is in memory (no wrap: D4,
log entry 11); every other byte, and `I` (D10, log entry 15), unchanged. -/
def Obligations.BcdStoresTheThreeDigits : Prop :=
  ∀ (s : State) (x : Reg), ∃ t, exec (.bcd x) s = .next t ∧
    (s.base < 4096 → (t.readByte s.base).toNat = (s.reg x).toNat / 100) ∧
    (s.base + 1 < 4096 → (t.readByte (s.base + 1)).toNat = (s.reg x).toNat / 10 % 10) ∧
    (s.base + 2 < 4096 → (t.readByte (s.base + 2)).toNat = (s.reg x).toNat % 10) ∧
    (∀ a, (a < s.base ∨ s.base + 3 ≤ a) → t.readByte a = s.readByte a) ∧ Frame { mem := true } s t

/-- `STM` (R135, by conflict C1 and D11, log entry 16): `x[0]` to `x[14]` at `I` upward whatever X is, each where its
address is in memory (D4, log entry 11); every other byte, and `I` (D10, log entry 15), unchanged. -/
def Obligations.BulkStoreWritesFifteenRegisters : Prop :=
  ∀ (s : State) (x : Reg), ∃ t, exec (.stm x) s = .next t ∧
    (∀ k : Reg, k.val < 15 → s.base + k.val < 4096 → t.readByte (s.base + k.val) = s.reg k) ∧
    (∀ a, (a < s.base ∨ s.base + 15 ≤ a) → t.readByte a = s.readByte a) ∧ Frame { mem := true } s t

/-- `LDM` (R136): `x[k]` from `I + k` for k up to X, an out-of-bounds byte loads 0 (R40; D4, log entry 11); registers
above X, memory and `I` (D10, log entry 15) unchanged. -/
def Obligations.BulkLoadReadsUpToRegisterX : Prop :=
  ∀ (s : State) (x : Reg), ∃ t, exec (.ldm x) s = .next t ∧
    (∀ k : Reg, k.val ≤ x.val → t.reg k = s.readByte (s.base + k.val)) ∧
    (∀ k : Reg, x.val < k.val → t.reg k = s.reg k) ∧
    Frame { regs := Instr.destinations (.ldm x) } s t

/-- `STM` then `LDM VF` at the same `I`, all inside memory: `x[0]` to `x[14]` come back and `x[15]` is the byte at
`I + 15` (R136; C1 and D11, log entry 16). -/
def Obligations.StoreThenLoadRestoresAllButTheFlag : Prop :=
  ∀ (s : State) (x : Reg), s.base + 15 < 4096 →
    ∃ t u, exec (.stm x) s = .next t ∧ exec (.ldm 15) t = .next u ∧
      (∀ k : Reg, k ≠ 15 → u.reg k = s.reg k) ∧ u.reg 15 = s.readByte (s.base + 15)

/-- A store over the instruction stream is seen by the very next fetch (R53): with `I` = `pc`, `STM` makes the next
word `x[0] ++ x[1]`. -/
def Obligations.StoredInstructionIsFetchedNext : Prop :=
  ∀ (s : State) (x : Reg), s.idx = s.pc → s.pc.toNat + 1 < 4096 →
    ∃ t, exec (.stm x) s = .next t ∧ t.fetch.1.toNat = (s.reg 0).toNat * 256 + (s.reg 1).toNat

/-! ## Display -/

/-- `CLS` (R140): every cell off; no flag (D12, log entry 17). -/
def Obligations.ClearTurnsEveryCellOff : Prop :=
  ∀ s : State, ∃ t, exec .cls s = .next t ∧ (∀ cy cx, t.fb.cell cy cx = false) ∧ Frame { fb := true } s t

/-- `DRW` (R142): every cell of the grid under a set sprite pixel is inverted and no other; the flag is 1 exactly when
one of those was on, else 0; sprites are clipped, not wrapped; the anchor is read before the flag is written (D7, log
entry 12) and `I` is unchanged (D10, log entry 15). -/
def Obligations.DrawTogglesTheCoveredCells : Prop :=
  ∀ (s : State) (x y : Reg) (n : Fin 16) (x0 y0 : Nat), x0 = (s.reg x).toNat % 64 → y0 = (s.reg y).toNat % 32 →
    ∃ t, exec (.drw x y n) s = .next t ∧
      (∀ cy cx, cy < 32 → cx < 64 → s.covers x0 y0 n.val cy cx → t.fb.cell cy cx = !s.fb.cell cy cx) ∧
      (∀ cy cx, ¬s.covers x0 y0 n.val cy cx → t.fb.cell cy cx = s.fb.cell cy cx) ∧
      ((∃ cy cx, cy < 32 ∧ cx < 64 ∧ s.covers x0 y0 n.val cy cx ∧ s.fb.cell cy cx = true) → t.reg 15 = 1) ∧
      ((∀ cy cx, cy < 32 → cx < 64 → s.covers x0 y0 n.val cy cx → s.fb.cell cy cx = false) → t.reg 15 = 0) ∧
      Frame { regs := [15], fb := true } s t

/-- Double draw (R143): the same sprite drawn twice, X and Y not 15, restores the display, and the second flag is 1
exactly when some covered cell was off before the first draw. -/
def Obligations.DrawingTwiceRestoresTheDisplay : Prop :=
  ∀ (s : State) (x y : Reg) (n : Fin 16), x ≠ 15 → y ≠ 15 →
    ∃ t u, exec (.drw x y n) s = .next t ∧ exec (.drw x y n) t = .next u ∧ u.fb = s.fb ∧
      (u.reg 15 = 1 ↔ ∃ cy cx, cy < 32 ∧ cx < 64 ∧
        s.covers ((s.reg x).toNat % 64) ((s.reg y).toNat % 32) n.val cy cx ∧ s.fb.cell cy cx = false) ∧
      (u.reg 15 = 0 ∨ u.reg 15 = 1)

/-! ## Timer and key instructions -/

/-- `LDDT`, `STDT`, `STST` (R150, R151, R152), all three from general knowledge (D25, log entry 9). -/
def Obligations.TimerInstructionsMoveTheTimers : Prop :=
  ∀ (s : State) (x : Reg),
    (∃ t, exec (.lddt x) s = .next t ∧ t.reg x = s.dt ∧ Frame { regs := [x] } s t) ∧
    (∃ t, exec (.stdt x) s = .next t ∧ t.dt = s.reg x ∧ Frame { dt := true } s t) ∧
    (∃ t, exec (.stst x) s = .next t ∧ t.st = s.reg x ∧ Frame { st := true } s t)

/-- `LDK` (R153) only enters the wait: no register is written and `pc` stays past the instruction, whatever keys are
down in its step. -/
def Obligations.LoadKeyOnlyEntersTheWait : Prop :=
  ∀ (s : State) (x : Reg), ∃ t, exec (.ldk x) s = .next t ∧ t.wait = .awaitingKey x ∧ Frame { wait := true } s t
end

