-- ==== Sys2Proof/Laws/Assembly.lean ====
section
/-! SUPPORT. How many bytes the parts of a program text place (30_encoding.md R71, R72). -/

namespace Sys2Proof

/-- A pass that gives one result an item keeps the length. -/
theorem length_of_mapM_eq_some {α β} (f : α → Option β) : ∀ (l : List α) (r : List β), l.mapM f = some r → r.length = l.length
  | [], r, h => by simp at h; subst h; rfl
  | a :: l, r, h => by
    simp only [List.mapM_cons, Option.pure_def, Option.bind_eq_bind, Option.bind_eq_some_iff] at h
    obtain ⟨b, _, bs, h2, h3⟩ := h
    have := length_of_mapM_eq_some f l bs h2
    cases h3; simp [this]

/-- How many bytes one line places. -/
theorem AsmItem.image_length (it : AsmItem) (b) (h : it.image = some b) : b.length = match it with | .line _ => 2 | .db l => l.length := by
  cases it with
  | line l => simp [AsmItem.image] at h; obtain ⟨i, _, rfl⟩ := h; rfl
  | db l => exact length_of_mapM_eq_some _ _ _ h

/-- No line, no byte. -/
theorem programImage_nil : programImage [] = some [] := rfl

/-- The image of two parts is the one after the other. -/
theorem programImage_append (a b : List AsmItem) (r)
    (h : programImage (a ++ b) = some r) : ∃ x y, programImage a = some x ∧ programImage b = some y ∧ r = x ++ y := by
  simp only [programImage, Option.map_eq_some_iff, List.mapM_append, Option.pure_def, Option.bind_eq_bind, Option.bind_eq_some_iff] at h ⊢
  obtain ⟨u, ⟨x, hx, y, hy, h3⟩, rfl⟩ := h
  cases h3
  exact ⟨_, _, ⟨x, hx, rfl⟩, ⟨y, hy, rfl⟩, by simp⟩

/-- A source item places as many bytes as its size says. -/
theorem SourceItem.resolve_length (L) (i : SourceItem) (ls r) (h : i.resolve L = some ls) (h2 : programImage ls = some r) : r.length = i.size := by
  cases i with
  | label l => simp [SourceItem.resolve] at h; subst h; simp [programImage_nil] at h2; subst h2; rfl
  | instr m o =>
    simp [SourceItem.resolve] at h; obtain ⟨v, _, rfl⟩ := h
    simp [programImage] at h2
    have := AsmItem.image_length _ _ h2; simpa [SourceItem.size] using this
  | db o =>
    simp only [SourceItem.resolve, Option.map_eq_some_iff] at h; obtain ⟨v, hv, rfl⟩ := h
    simp [programImage] at h2
    have := AsmItem.image_length _ _ h2; have := length_of_mapM_eq_some _ _ _ hv; simp_all [SourceItem.size]

end Sys2Proof
end

