-- ==== Sys2Proof/Laws/Decode.lean ====
section
/-! SUPPORT. The fields of an encoded word, and the word of its two bytes. -/

namespace Sys2Proof

/-! ## The bits of the words that are put together -/

theorem wordOfBytes_getLsbD (hi lo : Byte) (i : Nat) :
    (wordOfBytes hi lo).getLsbD i = if i < 8 then lo.getLsbD i else hi.getLsbD (i - 8) := by
  show (hi ++ lo : BitVec (8 + 8)).getLsbD i = _
  rw [BitVec.getLsbD_append]

theorem encXNN_getLsbD (c : BitVec 4) (x : Reg) (nn : Byte) (i : Nat) :
    (encXNN c x nn).getLsbD i =
      if i < 8 then nn.getLsbD i else if i - 8 < 4 then (nibble x).getLsbD (i - 8) else c.getLsbD (i - 8 - 4) := by
  show (c ++ nibble x ++ nn : BitVec (4 + 4 + 8)).getLsbD i = _
  rw [BitVec.getLsbD_append, BitVec.getLsbD_append]

theorem encXYN_getLsbD (c : BitVec 4) (x y : Reg) (n : Fin 16) (i : Nat) :
    (encXYN c x y n).getLsbD i =
      if i < 4 then (nibble n).getLsbD i else if i - 4 < 4 then (nibble y).getLsbD (i - 4)
      else if i - 4 - 4 < 4 then (nibble x).getLsbD (i - 4 - 4) else c.getLsbD (i - 4 - 4 - 4) := by
  show (c ++ nibble x ++ nibble y ++ nibble n : BitVec (4 + 4 + 4 + 4)).getLsbD i = _
  rw [BitVec.getLsbD_append, BitVec.getLsbD_append, BitVec.getLsbD_append]

theorem encNNN_getLsbD (c : BitVec 4) (nnn : Addr12) (i : Nat) :
    (encNNN c nnn).getLsbD i = if i < 12 then nnn.getLsbD i else c.getLsbD (i - 12) := by
  show (c ++ nnn : BitVec (4 + 12)).getLsbD i = _
  rw [BitVec.getLsbD_append]

/-- A field of a word, from its bits. -/
theorem extractLsb_eq_of_bits {w : Nat} {op : Word} {lo : Nat} {v : BitVec w}
    (h : ∀ i, i < w → op.getLsbD (lo + i) = v.getLsbD i) : op.extractLsb' lo w = v := by
  apply BitVec.eq_of_getLsbD_eq
  intro i hi
  rw [BitVec.getLsbD_extractLsb', h i hi]
  simp [hi]

/-! ## The two bytes of a word (R44) -/

/-- The two bytes of a word put together are the word. -/
@[simp] theorem wordOfBytes_hi_lo (op : Word) : wordOfBytes (wordHi op) (wordLo op) = op := by
  apply BitVec.eq_of_getLsbD_eq
  intro i hi
  rw [wordOfBytes_getLsbD]
  by_cases h : i < 8
  · simp [h, wordLo]
  · have h1 : i - 8 < 8 := by omega
    have h2 : 8 + (i - 8) = i := by omega
    simp [h, h1, h2, wordHi]

/-! ## Fields of the format `XNN` -/

@[simp] theorem opClass_encXNN (c : BitVec 4) (x : Reg) (nn : Byte) : opClass (encXNN c x nn) = c :=
  extractLsb_eq_of_bits fun i _ => by
    rw [encXNN_getLsbD, if_neg (by omega), if_neg (by omega), show 12 + i - 8 - 4 = i by omega]

@[simp] theorem opX_encXNN (c : BitVec 4) (x : Reg) (nn : Byte) : opX (encXNN c x nn) = x := by
  have h : (encXNN c x nn).extractLsb' 8 4 = nibble x := extractLsb_eq_of_bits fun i hi => by
    rw [encXNN_getLsbD, if_neg (by omega), if_pos (by omega), show 8 + i - 8 = i by omega]
  rw [opX, h]
  rfl

@[simp] theorem opNN_encXNN (c : BitVec 4) (x : Reg) (nn : Byte) : opNN (encXNN c x nn) = nn :=
  extractLsb_eq_of_bits fun i hi => by
    rw [encXNN_getLsbD, if_pos (by omega), Nat.zero_add]

/-! ## Fields of the formats `XY` and `XYN` -/

@[simp] theorem opClass_encXYN (c : BitVec 4) (x y : Reg) (n : Fin 16) : opClass (encXYN c x y n) = c :=
  extractLsb_eq_of_bits fun i _ => by
    rw [encXYN_getLsbD, if_neg (by omega), if_neg (by omega), if_neg (by omega),
      show 12 + i - 4 - 4 - 4 = i by omega]

@[simp] theorem opX_encXYN (c : BitVec 4) (x y : Reg) (n : Fin 16) : opX (encXYN c x y n) = x := by
  have h : (encXYN c x y n).extractLsb' 8 4 = nibble x := extractLsb_eq_of_bits fun i hi => by
    rw [encXYN_getLsbD, if_neg (by omega), if_neg (by omega), if_pos (by omega), show 8 + i - 4 - 4 = i by omega]
  rw [opX, h]
  rfl

@[simp] theorem opY_encXYN (c : BitVec 4) (x y : Reg) (n : Fin 16) : opY (encXYN c x y n) = y := by
  have h : (encXYN c x y n).extractLsb' 4 4 = nibble y := extractLsb_eq_of_bits fun i hi => by
    rw [encXYN_getLsbD, if_neg (by omega), if_pos (by omega), show 4 + i - 4 = i by omega]
  rw [opY, h]
  rfl

@[simp] theorem opN_encXYN (c : BitVec 4) (x y : Reg) (n : Fin 16) : opN (encXYN c x y n) = n := by
  have h : (encXYN c x y n).extractLsb' 0 4 = nibble n := extractLsb_eq_of_bits fun i hi => by
    rw [encXYN_getLsbD, if_pos (by omega), Nat.zero_add]
  rw [opN, h]
  rfl

/-! ## Fields of the format `NNN` -/

@[simp] theorem opClass_encNNN (c : BitVec 4) (nnn : Addr12) : opClass (encNNN c nnn) = c :=
  extractLsb_eq_of_bits fun i _ => by
    rw [encNNN_getLsbD, if_neg (by omega), show 12 + i - 12 = i by omega]

@[simp] theorem opNNN_encNNN (c : BitVec 4) (nnn : Addr12) : opNNN (encNNN c nnn) = nnn :=
  extractLsb_eq_of_bits fun i hi => by
    rw [encNNN_getLsbD, if_pos (by omega), Nat.zero_add]

end Sys2Proof
end

