-- ==== Sys2Proof/Laws/State.lean ====
section
/-! SUPPORT. One lemma per field per update: what a named operation of Ops.lean leaves alone, and the field it writes. -/

namespace Sys2Proof.Machine

/-! ## `setReg` -/

@[simp] theorem State.setReg_regs (s : State) (r : Reg) (v : Byte) : (s.setReg r v).regs = s.regs.set r v := rfl
@[simp] theorem State.setReg_pc (s : State) (r : Reg) (v : Byte) : (s.setReg r v).pc = s.pc := rfl
@[simp] theorem State.setReg_idx (s : State) (r : Reg) (v : Byte) : (s.setReg r v).idx = s.idx := rfl
@[simp] theorem State.setReg_dt (s : State) (r : Reg) (v : Byte) : (s.setReg r v).dt = s.dt := rfl
@[simp] theorem State.setReg_st (s : State) (r : Reg) (v : Byte) : (s.setReg r v).st = s.st := rfl
@[simp] theorem State.setReg_sp (s : State) (r : Reg) (v : Byte) : (s.setReg r v).sp = s.sp := rfl
@[simp] theorem State.setReg_stk (s : State) (r : Reg) (v : Byte) : (s.setReg r v).stk = s.stk := rfl
@[simp] theorem State.setReg_wait (s : State) (r : Reg) (v : Byte) : (s.setReg r v).wait = s.wait := rfl
@[simp] theorem State.setReg_mem (s : State) (r : Reg) (v : Byte) : (s.setReg r v).mem = s.mem := rfl
@[simp] theorem State.setReg_fb (s : State) (r : Reg) (v : Byte) : (s.setReg r v).fb = s.fb := rfl
@[simp] theorem State.setReg_cfg (s : State) (r : Reg) (v : Byte) : (s.setReg r v).cfg = s.cfg := rfl
@[simp] theorem State.setReg_keys (s : State) (r : Reg) (v : Byte) : (s.setReg r v).keys = s.keys := rfl
@[simp] theorem State.setReg_draws (s : State) (r : Reg) (v : Byte) : (s.setReg r v).draws = s.draws := rfl
@[simp] theorem State.setReg_soundOut (s : State) (r : Reg) (v : Byte) : (s.setReg r v).soundOut = s.soundOut := rfl
@[simp] theorem State.setReg_host (s : State) (r : Reg) (v : Byte) : (s.setReg r v).host = s.host := rfl

/-! ## `setFlag` -/

@[simp] theorem State.setFlag_regs (s : State) (b : Bool) : (s.setFlag b).regs = s.regs.set 15 (flagByte b) := rfl
@[simp] theorem State.setFlag_pc (s : State) (b : Bool) : (s.setFlag b).pc = s.pc := rfl
@[simp] theorem State.setFlag_idx (s : State) (b : Bool) : (s.setFlag b).idx = s.idx := rfl
@[simp] theorem State.setFlag_dt (s : State) (b : Bool) : (s.setFlag b).dt = s.dt := rfl
@[simp] theorem State.setFlag_st (s : State) (b : Bool) : (s.setFlag b).st = s.st := rfl
@[simp] theorem State.setFlag_sp (s : State) (b : Bool) : (s.setFlag b).sp = s.sp := rfl
@[simp] theorem State.setFlag_stk (s : State) (b : Bool) : (s.setFlag b).stk = s.stk := rfl
@[simp] theorem State.setFlag_wait (s : State) (b : Bool) : (s.setFlag b).wait = s.wait := rfl
@[simp] theorem State.setFlag_mem (s : State) (b : Bool) : (s.setFlag b).mem = s.mem := rfl
@[simp] theorem State.setFlag_fb (s : State) (b : Bool) : (s.setFlag b).fb = s.fb := rfl
@[simp] theorem State.setFlag_cfg (s : State) (b : Bool) : (s.setFlag b).cfg = s.cfg := rfl
@[simp] theorem State.setFlag_keys (s : State) (b : Bool) : (s.setFlag b).keys = s.keys := rfl
@[simp] theorem State.setFlag_draws (s : State) (b : Bool) : (s.setFlag b).draws = s.draws := rfl
@[simp] theorem State.setFlag_soundOut (s : State) (b : Bool) : (s.setFlag b).soundOut = s.soundOut := rfl
@[simp] theorem State.setFlag_host (s : State) (b : Bool) : (s.setFlag b).host = s.host := rfl

/-! ## `setRegFlag` -/

@[simp] theorem State.setRegFlag_regs (s : State) (x : Reg) (v : Byte) (b : Bool) : (s.setRegFlag x v b).regs = (s.regs.set x v).set 15 (flagByte b) := rfl
@[simp] theorem State.setRegFlag_pc (s : State) (x : Reg) (v : Byte) (b : Bool) : (s.setRegFlag x v b).pc = s.pc := rfl
@[simp] theorem State.setRegFlag_idx (s : State) (x : Reg) (v : Byte) (b : Bool) : (s.setRegFlag x v b).idx = s.idx := rfl
@[simp] theorem State.setRegFlag_dt (s : State) (x : Reg) (v : Byte) (b : Bool) : (s.setRegFlag x v b).dt = s.dt := rfl
@[simp] theorem State.setRegFlag_st (s : State) (x : Reg) (v : Byte) (b : Bool) : (s.setRegFlag x v b).st = s.st := rfl
@[simp] theorem State.setRegFlag_sp (s : State) (x : Reg) (v : Byte) (b : Bool) : (s.setRegFlag x v b).sp = s.sp := rfl
@[simp] theorem State.setRegFlag_stk (s : State) (x : Reg) (v : Byte) (b : Bool) : (s.setRegFlag x v b).stk = s.stk := rfl
@[simp] theorem State.setRegFlag_wait (s : State) (x : Reg) (v : Byte) (b : Bool) : (s.setRegFlag x v b).wait = s.wait := rfl
@[simp] theorem State.setRegFlag_mem (s : State) (x : Reg) (v : Byte) (b : Bool) : (s.setRegFlag x v b).mem = s.mem := rfl
@[simp] theorem State.setRegFlag_fb (s : State) (x : Reg) (v : Byte) (b : Bool) : (s.setRegFlag x v b).fb = s.fb := rfl
@[simp] theorem State.setRegFlag_cfg (s : State) (x : Reg) (v : Byte) (b : Bool) : (s.setRegFlag x v b).cfg = s.cfg := rfl
@[simp] theorem State.setRegFlag_keys (s : State) (x : Reg) (v : Byte) (b : Bool) : (s.setRegFlag x v b).keys = s.keys := rfl
@[simp] theorem State.setRegFlag_draws (s : State) (x : Reg) (v : Byte) (b : Bool) : (s.setRegFlag x v b).draws = s.draws := rfl
@[simp] theorem State.setRegFlag_soundOut (s : State) (x : Reg) (v : Byte) (b : Bool) : (s.setRegFlag x v b).soundOut = s.soundOut := rfl
@[simp] theorem State.setRegFlag_host (s : State) (x : Reg) (v : Byte) (b : Bool) : (s.setRegFlag x v b).host = s.host := rfl

/-! ## `setRandom` -/

@[simp] theorem State.setRandom_regs (s : State) (x : Reg) (r nn : Byte) : (s.setRandom x r nn).regs = s.regs.set x (r &&& nn) := rfl
@[simp] theorem State.setRandom_pc (s : State) (x : Reg) (r nn : Byte) : (s.setRandom x r nn).pc = s.pc := rfl
@[simp] theorem State.setRandom_idx (s : State) (x : Reg) (r nn : Byte) : (s.setRandom x r nn).idx = s.idx := rfl
@[simp] theorem State.setRandom_dt (s : State) (x : Reg) (r nn : Byte) : (s.setRandom x r nn).dt = s.dt := rfl
@[simp] theorem State.setRandom_st (s : State) (x : Reg) (r nn : Byte) : (s.setRandom x r nn).st = s.st := rfl
@[simp] theorem State.setRandom_sp (s : State) (x : Reg) (r nn : Byte) : (s.setRandom x r nn).sp = s.sp := rfl
@[simp] theorem State.setRandom_stk (s : State) (x : Reg) (r nn : Byte) : (s.setRandom x r nn).stk = s.stk := rfl
@[simp] theorem State.setRandom_wait (s : State) (x : Reg) (r nn : Byte) : (s.setRandom x r nn).wait = s.wait := rfl
@[simp] theorem State.setRandom_mem (s : State) (x : Reg) (r nn : Byte) : (s.setRandom x r nn).mem = s.mem := rfl
@[simp] theorem State.setRandom_fb (s : State) (x : Reg) (r nn : Byte) : (s.setRandom x r nn).fb = s.fb := rfl
@[simp] theorem State.setRandom_cfg (s : State) (x : Reg) (r nn : Byte) : (s.setRandom x r nn).cfg = s.cfg := rfl
@[simp] theorem State.setRandom_keys (s : State) (x : Reg) (r nn : Byte) : (s.setRandom x r nn).keys = s.keys := rfl
@[simp] theorem State.setRandom_draws (s : State) (x : Reg) (r nn : Byte) : (s.setRandom x r nn).draws = s.draws := rfl
@[simp] theorem State.setRandom_soundOut (s : State) (x : Reg) (r nn : Byte) : (s.setRandom x r nn).soundOut = s.soundOut := rfl
@[simp] theorem State.setRandom_host (s : State) (x : Reg) (r nn : Byte) : (s.setRandom x r nn).host = s.host := rfl

/-! ## `setIdx` -/

@[simp] theorem State.setIdx_regs (s : State) (v : Word) : (s.setIdx v).regs = s.regs := rfl
@[simp] theorem State.setIdx_pc (s : State) (v : Word) : (s.setIdx v).pc = s.pc := rfl
@[simp] theorem State.setIdx_idx (s : State) (v : Word) : (s.setIdx v).idx = v := rfl
@[simp] theorem State.setIdx_dt (s : State) (v : Word) : (s.setIdx v).dt = s.dt := rfl
@[simp] theorem State.setIdx_st (s : State) (v : Word) : (s.setIdx v).st = s.st := rfl
@[simp] theorem State.setIdx_sp (s : State) (v : Word) : (s.setIdx v).sp = s.sp := rfl
@[simp] theorem State.setIdx_stk (s : State) (v : Word) : (s.setIdx v).stk = s.stk := rfl
@[simp] theorem State.setIdx_wait (s : State) (v : Word) : (s.setIdx v).wait = s.wait := rfl
@[simp] theorem State.setIdx_mem (s : State) (v : Word) : (s.setIdx v).mem = s.mem := rfl
@[simp] theorem State.setIdx_fb (s : State) (v : Word) : (s.setIdx v).fb = s.fb := rfl
@[simp] theorem State.setIdx_cfg (s : State) (v : Word) : (s.setIdx v).cfg = s.cfg := rfl
@[simp] theorem State.setIdx_keys (s : State) (v : Word) : (s.setIdx v).keys = s.keys := rfl
@[simp] theorem State.setIdx_draws (s : State) (v : Word) : (s.setIdx v).draws = s.draws := rfl
@[simp] theorem State.setIdx_soundOut (s : State) (v : Word) : (s.setIdx v).soundOut = s.soundOut := rfl
@[simp] theorem State.setIdx_host (s : State) (v : Word) : (s.setIdx v).host = s.host := rfl

/-! ## `setDt` -/

@[simp] theorem State.setDt_regs (s : State) (v : Byte) : (s.setDt v).regs = s.regs := rfl
@[simp] theorem State.setDt_pc (s : State) (v : Byte) : (s.setDt v).pc = s.pc := rfl
@[simp] theorem State.setDt_idx (s : State) (v : Byte) : (s.setDt v).idx = s.idx := rfl
@[simp] theorem State.setDt_dt (s : State) (v : Byte) : (s.setDt v).dt = v := rfl
@[simp] theorem State.setDt_st (s : State) (v : Byte) : (s.setDt v).st = s.st := rfl
@[simp] theorem State.setDt_sp (s : State) (v : Byte) : (s.setDt v).sp = s.sp := rfl
@[simp] theorem State.setDt_stk (s : State) (v : Byte) : (s.setDt v).stk = s.stk := rfl
@[simp] theorem State.setDt_wait (s : State) (v : Byte) : (s.setDt v).wait = s.wait := rfl
@[simp] theorem State.setDt_mem (s : State) (v : Byte) : (s.setDt v).mem = s.mem := rfl
@[simp] theorem State.setDt_fb (s : State) (v : Byte) : (s.setDt v).fb = s.fb := rfl
@[simp] theorem State.setDt_cfg (s : State) (v : Byte) : (s.setDt v).cfg = s.cfg := rfl
@[simp] theorem State.setDt_keys (s : State) (v : Byte) : (s.setDt v).keys = s.keys := rfl
@[simp] theorem State.setDt_draws (s : State) (v : Byte) : (s.setDt v).draws = s.draws := rfl
@[simp] theorem State.setDt_soundOut (s : State) (v : Byte) : (s.setDt v).soundOut = s.soundOut := rfl
@[simp] theorem State.setDt_host (s : State) (v : Byte) : (s.setDt v).host = s.host := rfl

/-! ## `setSt` -/

@[simp] theorem State.setSt_regs (s : State) (v : Byte) : (s.setSt v).regs = s.regs := rfl
@[simp] theorem State.setSt_pc (s : State) (v : Byte) : (s.setSt v).pc = s.pc := rfl
@[simp] theorem State.setSt_idx (s : State) (v : Byte) : (s.setSt v).idx = s.idx := rfl
@[simp] theorem State.setSt_dt (s : State) (v : Byte) : (s.setSt v).dt = s.dt := rfl
@[simp] theorem State.setSt_st (s : State) (v : Byte) : (s.setSt v).st = v := rfl
@[simp] theorem State.setSt_sp (s : State) (v : Byte) : (s.setSt v).sp = s.sp := rfl
@[simp] theorem State.setSt_stk (s : State) (v : Byte) : (s.setSt v).stk = s.stk := rfl
@[simp] theorem State.setSt_wait (s : State) (v : Byte) : (s.setSt v).wait = s.wait := rfl
@[simp] theorem State.setSt_mem (s : State) (v : Byte) : (s.setSt v).mem = s.mem := rfl
@[simp] theorem State.setSt_fb (s : State) (v : Byte) : (s.setSt v).fb = s.fb := rfl
@[simp] theorem State.setSt_cfg (s : State) (v : Byte) : (s.setSt v).cfg = s.cfg := rfl
@[simp] theorem State.setSt_keys (s : State) (v : Byte) : (s.setSt v).keys = s.keys := rfl
@[simp] theorem State.setSt_draws (s : State) (v : Byte) : (s.setSt v).draws = s.draws := rfl
@[simp] theorem State.setSt_soundOut (s : State) (v : Byte) : (s.setSt v).soundOut = s.soundOut := rfl
@[simp] theorem State.setSt_host (s : State) (v : Byte) : (s.setSt v).host = s.host := rfl

/-! ## `setWait` -/

@[simp] theorem State.setWait_regs (s : State) (w : Wait) : (s.setWait w).regs = s.regs := rfl
@[simp] theorem State.setWait_pc (s : State) (w : Wait) : (s.setWait w).pc = s.pc := rfl
@[simp] theorem State.setWait_idx (s : State) (w : Wait) : (s.setWait w).idx = s.idx := rfl
@[simp] theorem State.setWait_dt (s : State) (w : Wait) : (s.setWait w).dt = s.dt := rfl
@[simp] theorem State.setWait_st (s : State) (w : Wait) : (s.setWait w).st = s.st := rfl
@[simp] theorem State.setWait_sp (s : State) (w : Wait) : (s.setWait w).sp = s.sp := rfl
@[simp] theorem State.setWait_stk (s : State) (w : Wait) : (s.setWait w).stk = s.stk := rfl
@[simp] theorem State.setWait_wait (s : State) (w : Wait) : (s.setWait w).wait = w := rfl
@[simp] theorem State.setWait_mem (s : State) (w : Wait) : (s.setWait w).mem = s.mem := rfl
@[simp] theorem State.setWait_fb (s : State) (w : Wait) : (s.setWait w).fb = s.fb := rfl
@[simp] theorem State.setWait_cfg (s : State) (w : Wait) : (s.setWait w).cfg = s.cfg := rfl
@[simp] theorem State.setWait_keys (s : State) (w : Wait) : (s.setWait w).keys = s.keys := rfl
@[simp] theorem State.setWait_draws (s : State) (w : Wait) : (s.setWait w).draws = s.draws := rfl
@[simp] theorem State.setWait_soundOut (s : State) (w : Wait) : (s.setWait w).soundOut = s.soundOut := rfl
@[simp] theorem State.setWait_host (s : State) (w : Wait) : (s.setWait w).host = s.host := rfl

/-! ## `setDisplay` -/

@[simp] theorem State.setDisplay_regs (s : State) (fb : Display) : (s.setDisplay fb).regs = s.regs := rfl
@[simp] theorem State.setDisplay_pc (s : State) (fb : Display) : (s.setDisplay fb).pc = s.pc := rfl
@[simp] theorem State.setDisplay_idx (s : State) (fb : Display) : (s.setDisplay fb).idx = s.idx := rfl
@[simp] theorem State.setDisplay_dt (s : State) (fb : Display) : (s.setDisplay fb).dt = s.dt := rfl
@[simp] theorem State.setDisplay_st (s : State) (fb : Display) : (s.setDisplay fb).st = s.st := rfl
@[simp] theorem State.setDisplay_sp (s : State) (fb : Display) : (s.setDisplay fb).sp = s.sp := rfl
@[simp] theorem State.setDisplay_stk (s : State) (fb : Display) : (s.setDisplay fb).stk = s.stk := rfl
@[simp] theorem State.setDisplay_wait (s : State) (fb : Display) : (s.setDisplay fb).wait = s.wait := rfl
@[simp] theorem State.setDisplay_mem (s : State) (fb : Display) : (s.setDisplay fb).mem = s.mem := rfl
@[simp] theorem State.setDisplay_fb (s : State) (fb : Display) : (s.setDisplay fb).fb = fb := rfl
@[simp] theorem State.setDisplay_cfg (s : State) (fb : Display) : (s.setDisplay fb).cfg = s.cfg := rfl
@[simp] theorem State.setDisplay_keys (s : State) (fb : Display) : (s.setDisplay fb).keys = s.keys := rfl
@[simp] theorem State.setDisplay_draws (s : State) (fb : Display) : (s.setDisplay fb).draws = s.draws := rfl
@[simp] theorem State.setDisplay_soundOut (s : State) (fb : Display) : (s.setDisplay fb).soundOut = s.soundOut := rfl
@[simp] theorem State.setDisplay_host (s : State) (fb : Display) : (s.setDisplay fb).host = s.host := rfl

/-! ## `jump` -/

@[simp] theorem State.jump_regs (s : State) (v : Word) : (s.jump v).regs = s.regs := rfl
@[simp] theorem State.jump_pc (s : State) (v : Word) : (s.jump v).pc = v := rfl
@[simp] theorem State.jump_idx (s : State) (v : Word) : (s.jump v).idx = s.idx := rfl
@[simp] theorem State.jump_dt (s : State) (v : Word) : (s.jump v).dt = s.dt := rfl
@[simp] theorem State.jump_st (s : State) (v : Word) : (s.jump v).st = s.st := rfl
@[simp] theorem State.jump_sp (s : State) (v : Word) : (s.jump v).sp = s.sp := rfl
@[simp] theorem State.jump_stk (s : State) (v : Word) : (s.jump v).stk = s.stk := rfl
@[simp] theorem State.jump_wait (s : State) (v : Word) : (s.jump v).wait = s.wait := rfl
@[simp] theorem State.jump_mem (s : State) (v : Word) : (s.jump v).mem = s.mem := rfl
@[simp] theorem State.jump_fb (s : State) (v : Word) : (s.jump v).fb = s.fb := rfl
@[simp] theorem State.jump_cfg (s : State) (v : Word) : (s.jump v).cfg = s.cfg := rfl
@[simp] theorem State.jump_keys (s : State) (v : Word) : (s.jump v).keys = s.keys := rfl
@[simp] theorem State.jump_draws (s : State) (v : Word) : (s.jump v).draws = s.draws := rfl
@[simp] theorem State.jump_soundOut (s : State) (v : Word) : (s.jump v).soundOut = s.soundOut := rfl
@[simp] theorem State.jump_host (s : State) (v : Word) : (s.jump v).host = s.host := rfl

/-! ## `advancePc` -/

@[simp] theorem State.advancePc_regs (s : State) : s.advancePc.regs = s.regs := rfl
@[simp] theorem State.advancePc_pc (s : State) : s.advancePc.pc = s.pc + 2 := rfl
@[simp] theorem State.advancePc_idx (s : State) : s.advancePc.idx = s.idx := rfl
@[simp] theorem State.advancePc_dt (s : State) : s.advancePc.dt = s.dt := rfl
@[simp] theorem State.advancePc_st (s : State) : s.advancePc.st = s.st := rfl
@[simp] theorem State.advancePc_sp (s : State) : s.advancePc.sp = s.sp := rfl
@[simp] theorem State.advancePc_stk (s : State) : s.advancePc.stk = s.stk := rfl
@[simp] theorem State.advancePc_wait (s : State) : s.advancePc.wait = s.wait := rfl
@[simp] theorem State.advancePc_mem (s : State) : s.advancePc.mem = s.mem := rfl
@[simp] theorem State.advancePc_fb (s : State) : s.advancePc.fb = s.fb := rfl
@[simp] theorem State.advancePc_cfg (s : State) : s.advancePc.cfg = s.cfg := rfl
@[simp] theorem State.advancePc_keys (s : State) : s.advancePc.keys = s.keys := rfl
@[simp] theorem State.advancePc_draws (s : State) : s.advancePc.draws = s.draws := rfl
@[simp] theorem State.advancePc_soundOut (s : State) : s.advancePc.soundOut = s.soundOut := rfl
@[simp] theorem State.advancePc_host (s : State) : s.advancePc.host = s.host := rfl

/-! ## `writeByte` -/

@[simp] theorem State.writeByte_regs (s : State) (a : Nat) (v : Byte) : (s.writeByte a v).regs = s.regs := rfl
@[simp] theorem State.writeByte_pc (s : State) (a : Nat) (v : Byte) : (s.writeByte a v).pc = s.pc := rfl
@[simp] theorem State.writeByte_idx (s : State) (a : Nat) (v : Byte) : (s.writeByte a v).idx = s.idx := rfl
@[simp] theorem State.writeByte_dt (s : State) (a : Nat) (v : Byte) : (s.writeByte a v).dt = s.dt := rfl
@[simp] theorem State.writeByte_st (s : State) (a : Nat) (v : Byte) : (s.writeByte a v).st = s.st := rfl
@[simp] theorem State.writeByte_sp (s : State) (a : Nat) (v : Byte) : (s.writeByte a v).sp = s.sp := rfl
@[simp] theorem State.writeByte_stk (s : State) (a : Nat) (v : Byte) : (s.writeByte a v).stk = s.stk := rfl
@[simp] theorem State.writeByte_wait (s : State) (a : Nat) (v : Byte) : (s.writeByte a v).wait = s.wait := rfl
@[simp] theorem State.writeByte_mem (s : State) (a : Nat) (v : Byte) : (s.writeByte a v).mem = Memory.write s.cfg.font s.mem a v := rfl
@[simp] theorem State.writeByte_fb (s : State) (a : Nat) (v : Byte) : (s.writeByte a v).fb = s.fb := rfl
@[simp] theorem State.writeByte_cfg (s : State) (a : Nat) (v : Byte) : (s.writeByte a v).cfg = s.cfg := rfl
@[simp] theorem State.writeByte_keys (s : State) (a : Nat) (v : Byte) : (s.writeByte a v).keys = s.keys := rfl
@[simp] theorem State.writeByte_draws (s : State) (a : Nat) (v : Byte) : (s.writeByte a v).draws = s.draws := rfl
@[simp] theorem State.writeByte_soundOut (s : State) (a : Nat) (v : Byte) : (s.writeByte a v).soundOut = s.soundOut := rfl
@[simp] theorem State.writeByte_host (s : State) (a : Nat) (v : Byte) : (s.writeByte a v).host = s.host := rfl

/-! ## `latchKeys` -/

@[simp] theorem State.latchKeys_regs (s : State) (k : KeyVector) : (s.latchKeys k).regs = s.regs := rfl
@[simp] theorem State.latchKeys_pc (s : State) (k : KeyVector) : (s.latchKeys k).pc = s.pc := rfl
@[simp] theorem State.latchKeys_idx (s : State) (k : KeyVector) : (s.latchKeys k).idx = s.idx := rfl
@[simp] theorem State.latchKeys_dt (s : State) (k : KeyVector) : (s.latchKeys k).dt = s.dt := rfl
@[simp] theorem State.latchKeys_st (s : State) (k : KeyVector) : (s.latchKeys k).st = s.st := rfl
@[simp] theorem State.latchKeys_sp (s : State) (k : KeyVector) : (s.latchKeys k).sp = s.sp := rfl
@[simp] theorem State.latchKeys_stk (s : State) (k : KeyVector) : (s.latchKeys k).stk = s.stk := rfl
@[simp] theorem State.latchKeys_wait (s : State) (k : KeyVector) : (s.latchKeys k).wait = s.wait := rfl
@[simp] theorem State.latchKeys_mem (s : State) (k : KeyVector) : (s.latchKeys k).mem = s.mem := rfl
@[simp] theorem State.latchKeys_fb (s : State) (k : KeyVector) : (s.latchKeys k).fb = s.fb := rfl
@[simp] theorem State.latchKeys_cfg (s : State) (k : KeyVector) : (s.latchKeys k).cfg = s.cfg := rfl
@[simp] theorem State.latchKeys_keys (s : State) (k : KeyVector) : (s.latchKeys k).keys = k := rfl
@[simp] theorem State.latchKeys_draws (s : State) (k : KeyVector) : (s.latchKeys k).draws = s.draws := rfl
@[simp] theorem State.latchKeys_soundOut (s : State) (k : KeyVector) : (s.latchKeys k).soundOut = s.soundOut := rfl
@[simp] theorem State.latchKeys_host (s : State) (k : KeyVector) : (s.latchKeys k).host = s.host := rfl

/-! ## `skipIf` -/

@[simp] theorem State.skipIf_regs (s : State) (c : Bool) : (s.skipIf c).regs = s.regs := by
  cases c <;> rfl
@[simp] theorem State.skipIf_idx (s : State) (c : Bool) : (s.skipIf c).idx = s.idx := by
  cases c <;> rfl
@[simp] theorem State.skipIf_dt (s : State) (c : Bool) : (s.skipIf c).dt = s.dt := by
  cases c <;> rfl
@[simp] theorem State.skipIf_st (s : State) (c : Bool) : (s.skipIf c).st = s.st := by
  cases c <;> rfl
@[simp] theorem State.skipIf_sp (s : State) (c : Bool) : (s.skipIf c).sp = s.sp := by
  cases c <;> rfl
@[simp] theorem State.skipIf_stk (s : State) (c : Bool) : (s.skipIf c).stk = s.stk := by
  cases c <;> rfl
@[simp] theorem State.skipIf_wait (s : State) (c : Bool) : (s.skipIf c).wait = s.wait := by
  cases c <;> rfl
@[simp] theorem State.skipIf_mem (s : State) (c : Bool) : (s.skipIf c).mem = s.mem := by
  cases c <;> rfl
@[simp] theorem State.skipIf_fb (s : State) (c : Bool) : (s.skipIf c).fb = s.fb := by
  cases c <;> rfl
@[simp] theorem State.skipIf_cfg (s : State) (c : Bool) : (s.skipIf c).cfg = s.cfg := by
  cases c <;> rfl
@[simp] theorem State.skipIf_keys (s : State) (c : Bool) : (s.skipIf c).keys = s.keys := by
  cases c <;> rfl
@[simp] theorem State.skipIf_draws (s : State) (c : Bool) : (s.skipIf c).draws = s.draws := by
  cases c <;> rfl
@[simp] theorem State.skipIf_soundOut (s : State) (c : Bool) : (s.skipIf c).soundOut = s.soundOut := by
  cases c <;> rfl
@[simp] theorem State.skipIf_host (s : State) (c : Bool) : (s.skipIf c).host = s.host := by
  cases c <;> rfl

/-! ## `push` -/

@[simp] theorem State.push_regs (s : State) (v : Word) : (s.push v).regs = s.regs := by
  unfold State.push; split <;> rfl
@[simp] theorem State.push_pc (s : State) (v : Word) : (s.push v).pc = s.pc := by
  unfold State.push; split <;> rfl
@[simp] theorem State.push_idx (s : State) (v : Word) : (s.push v).idx = s.idx := by
  unfold State.push; split <;> rfl
@[simp] theorem State.push_dt (s : State) (v : Word) : (s.push v).dt = s.dt := by
  unfold State.push; split <;> rfl
@[simp] theorem State.push_st (s : State) (v : Word) : (s.push v).st = s.st := by
  unfold State.push; split <;> rfl
@[simp] theorem State.push_wait (s : State) (v : Word) : (s.push v).wait = s.wait := by
  unfold State.push; split <;> rfl
@[simp] theorem State.push_mem (s : State) (v : Word) : (s.push v).mem = s.mem := by
  unfold State.push; split <;> rfl
@[simp] theorem State.push_fb (s : State) (v : Word) : (s.push v).fb = s.fb := by
  unfold State.push; split <;> rfl
@[simp] theorem State.push_cfg (s : State) (v : Word) : (s.push v).cfg = s.cfg := by
  unfold State.push; split <;> rfl
@[simp] theorem State.push_keys (s : State) (v : Word) : (s.push v).keys = s.keys := by
  unfold State.push; split <;> rfl
@[simp] theorem State.push_draws (s : State) (v : Word) : (s.push v).draws = s.draws := by
  unfold State.push; split <;> rfl
@[simp] theorem State.push_soundOut (s : State) (v : Word) : (s.push v).soundOut = s.soundOut := by
  unfold State.push; split <;> rfl
@[simp] theorem State.push_host (s : State) (v : Word) : (s.push v).host = s.host := by
  unfold State.push; split <;> rfl

/-! ## `pop` -/

@[simp] theorem State.pop_regs (s : State)  : s.pop.2.regs = s.regs := by
  unfold State.pop; split <;> rfl
@[simp] theorem State.pop_pc (s : State)  : s.pop.2.pc = s.pc := by
  unfold State.pop; split <;> rfl
@[simp] theorem State.pop_idx (s : State)  : s.pop.2.idx = s.idx := by
  unfold State.pop; split <;> rfl
@[simp] theorem State.pop_dt (s : State)  : s.pop.2.dt = s.dt := by
  unfold State.pop; split <;> rfl
@[simp] theorem State.pop_st (s : State)  : s.pop.2.st = s.st := by
  unfold State.pop; split <;> rfl
@[simp] theorem State.pop_stk (s : State)  : s.pop.2.stk = s.stk := by
  unfold State.pop; split <;> rfl
@[simp] theorem State.pop_wait (s : State)  : s.pop.2.wait = s.wait := by
  unfold State.pop; split <;> rfl
@[simp] theorem State.pop_mem (s : State)  : s.pop.2.mem = s.mem := by
  unfold State.pop; split <;> rfl
@[simp] theorem State.pop_fb (s : State)  : s.pop.2.fb = s.fb := by
  unfold State.pop; split <;> rfl
@[simp] theorem State.pop_cfg (s : State)  : s.pop.2.cfg = s.cfg := by
  unfold State.pop; split <;> rfl
@[simp] theorem State.pop_keys (s : State)  : s.pop.2.keys = s.keys := by
  unfold State.pop; split <;> rfl
@[simp] theorem State.pop_draws (s : State)  : s.pop.2.draws = s.draws := by
  unfold State.pop; split <;> rfl
@[simp] theorem State.pop_soundOut (s : State)  : s.pop.2.soundOut = s.soundOut := by
  unfold State.pop; split <;> rfl
@[simp] theorem State.pop_host (s : State)  : s.pop.2.host = s.host := by
  unfold State.pop; split <;> rfl

/-! ## `draw` -/

@[simp] theorem State.draw_regs (s : State) : s.draw.2.regs = s.regs := rfl
@[simp] theorem State.draw_pc (s : State) : s.draw.2.pc = s.pc := rfl
@[simp] theorem State.draw_idx (s : State) : s.draw.2.idx = s.idx := rfl
@[simp] theorem State.draw_dt (s : State) : s.draw.2.dt = s.dt := rfl
@[simp] theorem State.draw_st (s : State) : s.draw.2.st = s.st := rfl
@[simp] theorem State.draw_sp (s : State) : s.draw.2.sp = s.sp := rfl
@[simp] theorem State.draw_stk (s : State) : s.draw.2.stk = s.stk := rfl
@[simp] theorem State.draw_wait (s : State) : s.draw.2.wait = s.wait := rfl
@[simp] theorem State.draw_mem (s : State) : s.draw.2.mem = s.mem := rfl
@[simp] theorem State.draw_fb (s : State) : s.draw.2.fb = s.fb := rfl
@[simp] theorem State.draw_cfg (s : State) : s.draw.2.cfg = s.cfg := rfl
@[simp] theorem State.draw_keys (s : State) : s.draw.2.keys = s.keys := rfl
@[simp] theorem State.draw_draws (s : State) : s.draw.2.draws = s.draws + 1 := rfl
@[simp] theorem State.draw_soundOut (s : State) : s.draw.2.soundOut = s.soundOut := rfl
@[simp] theorem State.draw_host (s : State) : s.draw.2.host = s.host := rfl

/-! ## `writeSeq` -/

@[simp] theorem State.writeSeq_regs (s : State) (a : Nat) (bs : List Byte) : (s.writeSeq a bs).regs = s.regs := by
  induction bs generalizing s a with
  | nil => rfl
  | cons b bs ih => simp [State.writeSeq, ih]
@[simp] theorem State.writeSeq_pc (s : State) (a : Nat) (bs : List Byte) : (s.writeSeq a bs).pc = s.pc := by
  induction bs generalizing s a with
  | nil => rfl
  | cons b bs ih => simp [State.writeSeq, ih]
@[simp] theorem State.writeSeq_idx (s : State) (a : Nat) (bs : List Byte) : (s.writeSeq a bs).idx = s.idx := by
  induction bs generalizing s a with
  | nil => rfl
  | cons b bs ih => simp [State.writeSeq, ih]
@[simp] theorem State.writeSeq_dt (s : State) (a : Nat) (bs : List Byte) : (s.writeSeq a bs).dt = s.dt := by
  induction bs generalizing s a with
  | nil => rfl
  | cons b bs ih => simp [State.writeSeq, ih]
@[simp] theorem State.writeSeq_st (s : State) (a : Nat) (bs : List Byte) : (s.writeSeq a bs).st = s.st := by
  induction bs generalizing s a with
  | nil => rfl
  | cons b bs ih => simp [State.writeSeq, ih]
@[simp] theorem State.writeSeq_sp (s : State) (a : Nat) (bs : List Byte) : (s.writeSeq a bs).sp = s.sp := by
  induction bs generalizing s a with
  | nil => rfl
  | cons b bs ih => simp [State.writeSeq, ih]
@[simp] theorem State.writeSeq_stk (s : State) (a : Nat) (bs : List Byte) : (s.writeSeq a bs).stk = s.stk := by
  induction bs generalizing s a with
  | nil => rfl
  | cons b bs ih => simp [State.writeSeq, ih]
@[simp] theorem State.writeSeq_wait (s : State) (a : Nat) (bs : List Byte) : (s.writeSeq a bs).wait = s.wait := by
  induction bs generalizing s a with
  | nil => rfl
  | cons b bs ih => simp [State.writeSeq, ih]
@[simp] theorem State.writeSeq_fb (s : State) (a : Nat) (bs : List Byte) : (s.writeSeq a bs).fb = s.fb := by
  induction bs generalizing s a with
  | nil => rfl
  | cons b bs ih => simp [State.writeSeq, ih]
@[simp] theorem State.writeSeq_cfg (s : State) (a : Nat) (bs : List Byte) : (s.writeSeq a bs).cfg = s.cfg := by
  induction bs generalizing s a with
  | nil => rfl
  | cons b bs ih => simp [State.writeSeq, ih]
@[simp] theorem State.writeSeq_keys (s : State) (a : Nat) (bs : List Byte) : (s.writeSeq a bs).keys = s.keys := by
  induction bs generalizing s a with
  | nil => rfl
  | cons b bs ih => simp [State.writeSeq, ih]
@[simp] theorem State.writeSeq_draws (s : State) (a : Nat) (bs : List Byte) : (s.writeSeq a bs).draws = s.draws := by
  induction bs generalizing s a with
  | nil => rfl
  | cons b bs ih => simp [State.writeSeq, ih]
@[simp] theorem State.writeSeq_soundOut (s : State) (a : Nat) (bs : List Byte) : (s.writeSeq a bs).soundOut = s.soundOut := by
  induction bs generalizing s a with
  | nil => rfl
  | cons b bs ih => simp [State.writeSeq, ih]
@[simp] theorem State.writeSeq_host (s : State) (a : Nat) (bs : List Byte) : (s.writeSeq a bs).host = s.host := by
  induction bs generalizing s a with
  | nil => rfl
  | cons b bs ih => simp [State.writeSeq, ih]

/-! ## `setRegs` -/

@[simp] theorem State.setRegs_pc (s : State) (k : Nat) (bs : List Byte) : (s.setRegs k bs).pc = s.pc := by
  induction bs generalizing s k with
  | nil => rfl
  | cons b bs ih => simp [State.setRegs, ih]
@[simp] theorem State.setRegs_idx (s : State) (k : Nat) (bs : List Byte) : (s.setRegs k bs).idx = s.idx := by
  induction bs generalizing s k with
  | nil => rfl
  | cons b bs ih => simp [State.setRegs, ih]
@[simp] theorem State.setRegs_dt (s : State) (k : Nat) (bs : List Byte) : (s.setRegs k bs).dt = s.dt := by
  induction bs generalizing s k with
  | nil => rfl
  | cons b bs ih => simp [State.setRegs, ih]
@[simp] theorem State.setRegs_st (s : State) (k : Nat) (bs : List Byte) : (s.setRegs k bs).st = s.st := by
  induction bs generalizing s k with
  | nil => rfl
  | cons b bs ih => simp [State.setRegs, ih]
@[simp] theorem State.setRegs_sp (s : State) (k : Nat) (bs : List Byte) : (s.setRegs k bs).sp = s.sp := by
  induction bs generalizing s k with
  | nil => rfl
  | cons b bs ih => simp [State.setRegs, ih]
@[simp] theorem State.setRegs_stk (s : State) (k : Nat) (bs : List Byte) : (s.setRegs k bs).stk = s.stk := by
  induction bs generalizing s k with
  | nil => rfl
  | cons b bs ih => simp [State.setRegs, ih]
@[simp] theorem State.setRegs_wait (s : State) (k : Nat) (bs : List Byte) : (s.setRegs k bs).wait = s.wait := by
  induction bs generalizing s k with
  | nil => rfl
  | cons b bs ih => simp [State.setRegs, ih]
@[simp] theorem State.setRegs_mem (s : State) (k : Nat) (bs : List Byte) : (s.setRegs k bs).mem = s.mem := by
  induction bs generalizing s k with
  | nil => rfl
  | cons b bs ih => simp [State.setRegs, ih]
@[simp] theorem State.setRegs_fb (s : State) (k : Nat) (bs : List Byte) : (s.setRegs k bs).fb = s.fb := by
  induction bs generalizing s k with
  | nil => rfl
  | cons b bs ih => simp [State.setRegs, ih]
@[simp] theorem State.setRegs_cfg (s : State) (k : Nat) (bs : List Byte) : (s.setRegs k bs).cfg = s.cfg := by
  induction bs generalizing s k with
  | nil => rfl
  | cons b bs ih => simp [State.setRegs, ih]
@[simp] theorem State.setRegs_keys (s : State) (k : Nat) (bs : List Byte) : (s.setRegs k bs).keys = s.keys := by
  induction bs generalizing s k with
  | nil => rfl
  | cons b bs ih => simp [State.setRegs, ih]
@[simp] theorem State.setRegs_draws (s : State) (k : Nat) (bs : List Byte) : (s.setRegs k bs).draws = s.draws := by
  induction bs generalizing s k with
  | nil => rfl
  | cons b bs ih => simp [State.setRegs, ih]
@[simp] theorem State.setRegs_soundOut (s : State) (k : Nat) (bs : List Byte) : (s.setRegs k bs).soundOut = s.soundOut := by
  induction bs generalizing s k with
  | nil => rfl
  | cons b bs ih => simp [State.setRegs, ih]
@[simp] theorem State.setRegs_host (s : State) (k : Nat) (bs : List Byte) : (s.setRegs k bs).host = s.host := by
  induction bs generalizing s k with
  | nil => rfl
  | cons b bs ih => simp [State.setRegs, ih]

end Sys2Proof.Machine
end

