-- ==== Sys2Proof/Laws/Display.lean ====
section
/-! SUPPORT. What toggling a cell, drawing a pixel, a row and a sprite do to each cell and to the collision. -/

namespace Sys2Proof.Machine

theorem Display.cell_blank (cy cx : Nat) : Display.blank.cell cy cx = false := by
  simp [Display.cell, Display.blank]

/-- `toggle` inverts its own cell, where the grid has it, and no other. -/
theorem Display.cell_toggle (fb : Display) (cy cx r c : Nat) :
    (fb.toggle cy cx).cell r c = if r = cy ∧ c = cx ∧ cy < 32 ∧ cx < 64 then !fb.cell r c else fb.cell r c := by
  by_cases h : cy < 32 ∧ cx < 64
  · by_cases hrc : r < 32 ∧ c < 64
    · by_cases hr : r = cy
      · subst hr
        by_cases hc : c = cx
        · subst hc
          simp [Display.toggle, Display.cell, h]
        · simp [Display.toggle, Display.cell, h, hrc, hc, Ne.symm hc]
      · simp [Display.toggle, Display.cell, h, hrc, hr, Ne.symm hr]
    · have hne : ¬(r = cy ∧ c = cx ∧ cy < 32 ∧ cx < 64) := by
        rintro ⟨rfl, rfl, hh⟩
        exact hrc hh
      rw [if_neg hne]
      simp [Display.cell, hrc]
  · have hne : ¬(r = cy ∧ c = cx ∧ cy < 32 ∧ cx < 64) := fun hh => h hh.2.2
    simp [Display.toggle, h]

/-- Two displays with equal cells are equal. -/
theorem Display.ext_cell {f g : Display} (h : ∀ r c, r < 32 → c < 64 → f.cell r c = g.cell r c) : f = g := by
  apply Vector.ext
  intro r hr
  apply Vector.ext
  intro c hc
  simpa [Display.cell, hr, hc] using h r c hr hc

theorem drawPixel_cell (cy cx : Nat) (p : Display × Bool) (r c : Nat) :
    (drawPixel cy cx p).1.cell r c =
      if r = cy ∧ c = cx ∧ cy < 32 ∧ cx < 64 then !p.1.cell r c else p.1.cell r c := by
  unfold drawPixel
  by_cases h : cy < 32 ∧ cx < 64
  · simp only [h, and_self, if_true, Display.cell_toggle]
  · have hne : ¬(r = cy ∧ c = cx ∧ cy < 32 ∧ cx < 64) := fun hh => h hh.2.2
    simp [h]

/-- Sprite column `k` of a row byte falls on cell (`r`, `c`) of the grid with its pixel set. -/
def columnHits (row : Byte) (cy x0 n r c : Nat) : Prop :=
  r = cy ∧ cy < 32 ∧ c < 64 ∧ x0 ≤ c ∧ c < x0 + n ∧ spritePixel row (c - x0) = true

/-- A row of a sprite toggles each cell under one of its set pixels, once. -/
theorem drawColumns_cell (row : Byte) (cy x0 n : Nat) (p : Display × Bool) (r c : Nat) :
    (columnHits row cy x0 n r c → (drawColumns row cy x0 n p).1.cell r c = !p.1.cell r c) ∧
    (¬columnHits row cy x0 n r c → (drawColumns row cy x0 n p).1.cell r c = p.1.cell r c) := by
  induction n with
  | zero => exact ⟨fun h => absurd h.2.2.2.2.1 (by have := h.2.2.2.1; omega), fun _ => rfl⟩
  | succ n ih =>
    by_cases hc : c = x0 + n
    · have hno : ¬columnHits row cy x0 n r c := fun h => absurd h.2.2.2.2.1 (by omega)
      have hold := ih.2 hno
      have hsub : c - x0 = n := by omega
      unfold drawColumns
      by_cases hp : spritePixel row n = true
      · simp only [hp, if_true, drawPixel_cell, hold]
        constructor
        · rintro ⟨hr, hcy, hcx, -⟩
          rw [if_pos ⟨hr, hc, hcy, hc ▸ hcx⟩]
        · intro h
          rw [if_neg]
          rintro ⟨hr, -, hcy, hcx⟩
          exact h ⟨hr, hcy, hc ▸ hcx, by omega, by omega, hsub ▸ hp⟩
      · rw [if_neg hp]
        exact ⟨fun h => absurd (hsub ▸ h.2.2.2.2.2) hp, fun _ => hold⟩
    · have heq : columnHits row cy x0 (n + 1) r c ↔ columnHits row cy x0 n r c := by
        simp only [columnHits]
        constructor
        · exact fun ⟨a, b, d, e, f, g⟩ => ⟨a, b, d, e, by omega, g⟩
        · exact fun ⟨a, b, d, e, f, g⟩ => ⟨a, b, d, e, by omega, g⟩
      rw [heq]
      unfold drawColumns
      by_cases hp : spritePixel row n = true
      · have hne : ¬(r = cy ∧ c = x0 + n ∧ cy < 32 ∧ x0 + n < 64) := fun h => hc h.2.1
        simp only [hp, if_true, drawPixel_cell, if_neg hne]
        exact ih
      · rw [if_neg hp]
        exact ih

/-- The collision after a row: one before it, or a cell that was on under one of its set pixels. -/
theorem drawColumns_hit (row : Byte) (cy x0 n : Nat) (p : Display × Bool) :
    (drawColumns row cy x0 n p).2 = true ↔
      p.2 = true ∨ ∃ r c, columnHits row cy x0 n r c ∧ p.1.cell r c = true := by
  induction n with
  | zero =>
    refine ⟨fun h => .inl h, ?_⟩
    rintro (h | ⟨r, c, h, -⟩)
    · exact h
    · exact absurd h.2.2.2.2.1 (by have := h.2.2.2.1; omega)
  | succ n ih =>
    have hgrow : ∀ r c, columnHits row cy x0 (n + 1) r c ↔
        columnHits row cy x0 n r c ∨
          (r = cy ∧ c = x0 + n ∧ cy < 32 ∧ x0 + n < 64 ∧ spritePixel row n = true) := by
      intro r c
      simp only [columnHits]
      constructor
      · rintro ⟨a, b, d, e, f, g⟩
        by_cases hc : c = x0 + n
        · have hsub : c - x0 = n := by omega
          exact .inr ⟨a, hc, b, hc ▸ d, hsub ▸ g⟩
        · exact .inl ⟨a, b, d, e, by omega, g⟩
      · rintro (⟨a, b, d, e, f, g⟩ | ⟨a, b, d, e, g⟩)
        · exact ⟨a, b, d, e, by omega, g⟩
        · subst b
          exact ⟨a, d, e, by omega, by omega, by rwa [Nat.add_sub_cancel_left]⟩
    have hlast : ¬columnHits row cy x0 n cy (x0 + n) := fun h => absurd h.2.2.2.2.1 (by omega)
    have hcell := (drawColumns_cell row cy x0 n p cy (x0 + n)).2 hlast
    unfold drawColumns
    by_cases hp : spritePixel row n = true
    · by_cases hin : cy < 32 ∧ x0 + n < 64
      · simp only [hp, if_true, drawPixel, hin, and_self, Bool.or_eq_true, ih, hcell]
        constructor
        · rintro ((h | ⟨r, c, h, hon⟩) | h)
          · exact .inl h
          · exact .inr ⟨r, c, (hgrow r c).mpr (.inl h), hon⟩
          · exact .inr ⟨cy, x0 + n, (hgrow _ _).mpr (.inr ⟨rfl, rfl, hin.1, hin.2, hp⟩), h⟩
        · rintro (h | ⟨r, c, h, hon⟩)
          · exact .inl (.inl h)
          · rcases (hgrow r c).mp h with h | ⟨rfl, rfl, -⟩
            · exact .inl (.inr ⟨r, c, h, hon⟩)
            · exact .inr hon
      · simp only [hp, if_true, drawPixel, if_neg hin, ih]
        refine or_congr_right ⟨?_, ?_⟩
        · exact fun ⟨r, c, h, hon⟩ => ⟨r, c, (hgrow r c).mpr (.inl h), hon⟩
        · rintro ⟨r, c, h, hon⟩
          rcases (hgrow r c).mp h with h | ⟨-, -, h1, h2, -⟩
          · exact ⟨r, c, h, hon⟩
          · exact absurd ⟨h1, h2⟩ hin
    · rw [if_neg hp, ih]
      refine or_congr_right ⟨?_, ?_⟩
      · exact fun ⟨r, c, h, hon⟩ => ⟨r, c, (hgrow r c).mpr (.inl h), hon⟩
      · rintro ⟨r, c, h, hon⟩
        rcases (hgrow r c).mp h with h | ⟨-, -, -, -, h5⟩
        · exact ⟨r, c, h, hon⟩
        · exact absurd h5 hp

/-- Cell (`r`, `c`) is a cell of the grid under a set pixel of the sprite. -/
def State.hits (s : State) (x0 y0 n r c : Nat) : Prop := r < 32 ∧ c < 64 ∧ s.covers x0 y0 n r c

/-- The last row of a sprite hits what its row byte hits; the rows before it hit other display rows. -/
theorem State.hits_succ (s : State) (x0 y0 n r c : Nat) :
    s.hits x0 y0 (n + 1) r c ↔ s.hits x0 y0 n r c ∨ columnHits (s.readByte (s.base + n)) (y0 + n) x0 8 r c := by
  simp only [State.hits, State.covers, columnHits, spritePixel]
  constructor
  · rintro ⟨hr, hc, h1, h2, h3, h4, h5⟩
    by_cases hl : r = y0 + n
    · have hsub : r - y0 = n := by omega
      exact .inr ⟨hl, hl ▸ hr, hc, h3, h4, hsub ▸ h5⟩
    · exact .inl ⟨hr, hc, h1, by omega, h3, h4, h5⟩
  · rintro (⟨hr, hc, h1, h2, h3, h4, h5⟩ | ⟨hl, hr, hc, h3, h4, h5⟩)
    · exact ⟨hr, hc, h1, by omega, h3, h4, h5⟩
    · subst hl
      exact ⟨hr, hc, by omega, by omega, h3, h4, by rwa [Nat.add_sub_cancel_left]⟩

theorem State.not_hits_last (s : State) {x0 y0 n r c : Nat} {row : Byte} (h : columnHits row (y0 + n) x0 8 r c) :
    ¬s.hits x0 y0 n r c := by
  rintro ⟨-, -, -, h2, -⟩
  have := h.1
  omega

/-- A sprite inverts each cell of the grid under one of its set pixels, once, and no other. -/
theorem State.drawRows_cell (s : State) (x0 y0 n : Nat) (p : Display × Bool) (r c : Nat) :
    (s.hits x0 y0 n r c → (s.drawRows x0 y0 n p).1.cell r c = !p.1.cell r c) ∧
    (¬s.hits x0 y0 n r c → (s.drawRows x0 y0 n p).1.cell r c = p.1.cell r c) := by
  induction n with
  | zero => exact ⟨fun h => absurd h.2.2.2.1 (by have := h.2.2.1; omega), fun _ => rfl⟩
  | succ n ih =>
    have hrow := drawColumns_cell (s.readByte (s.base + n)) (y0 + n) x0 8 (s.drawRows x0 y0 n p) r c
    rw [State.hits_succ]
    unfold State.drawRows
    by_cases hl : columnHits (s.readByte (s.base + n)) (y0 + n) x0 8 r c
    · rw [hrow.1 hl, ih.2 (s.not_hits_last hl)]
      exact ⟨fun _ => rfl, fun h => absurd (.inr hl) h⟩
    · rw [hrow.2 hl]
      exact ⟨fun h => ih.1 (h.resolve_right hl), fun h => ih.2 fun hh => h (.inl hh)⟩

/-- The collision after a sprite: one before it, or a cell that was on under one of its set pixels. -/
theorem State.drawRows_hit (s : State) (x0 y0 n : Nat) (p : Display × Bool) :
    (s.drawRows x0 y0 n p).2 = true ↔ p.2 = true ∨ ∃ r c, s.hits x0 y0 n r c ∧ p.1.cell r c = true := by
  induction n with
  | zero =>
    refine ⟨fun h => .inl h, ?_⟩
    rintro (h | ⟨r, c, h, -⟩)
    · exact h
    · exact absurd h.2.2.2.1 (by have := h.2.2.1; omega)
  | succ n ih =>
    unfold State.drawRows
    rw [drawColumns_hit, ih, or_assoc]
    refine or_congr_right ⟨?_, ?_⟩
    · rintro (⟨r, c, h, hon⟩ | ⟨r, c, h, hon⟩)
      · exact ⟨r, c, (s.hits_succ x0 y0 n r c).mpr (.inl h), hon⟩
      · rw [(s.drawRows_cell x0 y0 n p r c).2 (s.not_hits_last h)] at hon
        exact ⟨r, c, (s.hits_succ x0 y0 n r c).mpr (.inr h), hon⟩
    · rintro ⟨r, c, h, hon⟩
      rcases (s.hits_succ x0 y0 n r c).mp h with h | h
      · exact .inl ⟨r, c, h, hon⟩
      · refine .inr ⟨r, c, h, ?_⟩
        rwa [(s.drawRows_cell x0 y0 n p r c).2 (s.not_hits_last h)]

end Sys2Proof.Machine
end

