-- ==== Sys2Proof/Laws/Memory.lean ====
section
/-! SUPPORT. The laws of memory: a read after a write, what a write leaves alone, the canonical form that every write
keeps, and that a canonical memory is determined by its bytes. -/

namespace Sys2Proof.Machine

theorem Memory.lookup_erase_self (m : Memory) (a : Nat) : Memory.lookup (Memory.erase m a) a = none := by
  induction m with
  | nil => rfl
  | cons c m ih =>
    by_cases h : c.1 = a
    · simp [Memory.erase, h, ih]
    · simp [Memory.erase, Memory.lookup, h, ih]

theorem Memory.lookup_erase_ne (m : Memory) {a b : Nat} (hab : b ≠ a) :
    Memory.lookup (Memory.erase m a) b = Memory.lookup m b := by
  induction m with
  | nil => rfl
  | cons c m ih =>
    by_cases h : c.1 = a
    · have hb : c.1 ≠ b := fun hc => hab (hc ▸ h)
      simp [Memory.erase, Memory.lookup, h, ih, hab.symm]
    · simp [Memory.erase, Memory.lookup, h, ih]

theorem Memory.lookup_insert_ne (m : Memory) {a b : Nat} (v : Byte) (hab : b ≠ a) :
    Memory.lookup (Memory.insert m a v) b = Memory.lookup m b := by
  induction m with
  | nil => simp [Memory.insert, Memory.lookup, hab.symm]
  | cons c m ih =>
    by_cases h : a < c.1
    · simp [Memory.insert, h, Memory.lookup, hab.symm]
    · simp [Memory.insert, h, Memory.lookup, ih]

theorem Memory.lookup_insert_self (m : Memory) (a : Nat) (v : Byte) (hm : Memory.lookup m a = none) :
    Memory.lookup (Memory.insert m a v) a = some v := by
  induction m with
  | nil => simp [Memory.insert, Memory.lookup]
  | cons c m ih =>
    by_cases hc : c.1 = a
    · simp [Memory.lookup, hc] at hm
    · by_cases h : a < c.1
      · simp [Memory.insert, h, Memory.lookup]
      · have hm' : Memory.lookup m a = none := by simpa [Memory.lookup, hc] using hm
        simp [Memory.insert, h, Memory.lookup, hc, ih hm']

theorem Memory.lookup_put_ne (font : Font) (m : Memory) {a b : Nat} (v : Byte) (hab : b ≠ a) :
    Memory.lookup (Memory.put font m a v) b = Memory.lookup m b := by
  unfold Memory.put
  split
  · exact Memory.lookup_erase_ne m hab
  · rw [Memory.lookup_insert_ne _ v hab, Memory.lookup_erase_ne m hab]

theorem Memory.lookup_put_self (font : Font) (m : Memory) (a : Nat) (v : Byte) :
    (Memory.lookup (Memory.put font m a v) a).getD (Memory.unlisted font a) = v := by
  unfold Memory.put
  split
  · next hv => simp [Memory.lookup_erase_self, hv]
  · simp [Memory.lookup_insert_self _ _ _ (Memory.lookup_erase_self m a)]

/-- A read after a write (R40, R41), at every address, in every memory. -/
theorem Memory.read_write (font : Font) (m : Memory) (a b : Nat) (v : Byte) :
    Memory.read font (Memory.write font m a v) b =
      if b = a ∧ a < memSize then v else Memory.read font m b := by
  by_cases ha : a < memSize
  · by_cases hb : b = a
    · subst hb
      simp [Memory.write, Memory.read, ha, Memory.lookup_put_self]
    · simp [Memory.write, Memory.read, ha, hb, Memory.lookup_put_ne font m v hb]
  · simp [Memory.write, ha]

/-- Outside memory every byte reads 0 (R40). -/
theorem Memory.read_outside (font : Font) (m : Memory) {a : Nat} (h : memSize ≤ a) : Memory.read font m a = 0 := by
  simp [Memory.read, Nat.not_lt.mpr h]

theorem Memory.mem_erase {m : Memory} {a : Nat} {c : Host.Cell} :
    c ∈ Memory.erase m a ↔ c ∈ m ∧ c.1 ≠ a := by
  induction m with
  | nil => simp [Memory.erase]
  | cons d m ih =>
    by_cases h : d.1 = a
    · simp only [Memory.erase, h, if_true, ih, List.mem_cons]
      constructor
      · exact fun ⟨hc, hn⟩ => ⟨.inr hc, hn⟩
      · rintro ⟨rfl | hc, hn⟩
        · exact absurd h hn
        · exact ⟨hc, hn⟩
    · simp only [Memory.erase, h, if_false, List.mem_cons, ih]
      constructor
      · rintro (rfl | ⟨hc, hn⟩)
        · exact ⟨.inl rfl, h⟩
        · exact ⟨.inr hc, hn⟩
      · rintro ⟨rfl | hc, hn⟩
        · exact .inl rfl
        · exact .inr ⟨hc, hn⟩

theorem Memory.mem_insert {m : Memory} {a : Nat} {v : Byte} {c : Host.Cell} :
    c ∈ Memory.insert m a v ↔ c = (a, v) ∨ c ∈ m := by
  induction m with
  | nil => simp [Memory.insert]
  | cons d m ih =>
    by_cases h : a < d.1
    · simp [Memory.insert, h]
    · simp only [Memory.insert, h, if_false, List.mem_cons, ih]
      tauto

theorem Memory.erase_sorted {m : Memory} (a : Nat) (h : m.Pairwise (fun c d => c.1 < d.1)) :
    (Memory.erase m a).Pairwise (fun c d => c.1 < d.1) := by
  induction m with
  | nil => exact .nil
  | cons d m ih =>
    rw [List.pairwise_cons] at h
    by_cases hd : d.1 = a
    · simpa [Memory.erase, hd] using ih h.2
    · simp only [Memory.erase, hd, if_false, List.pairwise_cons]
      exact ⟨fun c hc => h.1 c (Memory.mem_erase.mp hc).1, ih h.2⟩

theorem Memory.insert_sorted {m : Memory} {a : Nat} (v : Byte) (h : m.Pairwise (fun c d => c.1 < d.1))
    (hn : ∀ c ∈ m, c.1 ≠ a) : (Memory.insert m a v).Pairwise (fun c d => c.1 < d.1) := by
  induction m with
  | nil => simp [Memory.insert]
  | cons d m ih =>
    rw [List.pairwise_cons] at h
    by_cases hd : a < d.1
    · simp only [Memory.insert, hd, if_true, List.pairwise_cons]
      refine ⟨fun c hc => ?_, h.1, h.2⟩
      rcases List.mem_cons.mp hc with rfl | hc
      · exact hd
      · exact Nat.lt_trans hd (h.1 c hc)
    · simp only [Memory.insert, hd, if_false, List.pairwise_cons]
      refine ⟨fun c hc => ?_, ih h.2 fun c hc => hn c (List.mem_cons_of_mem _ hc)⟩
      rcases Memory.mem_insert.mp hc with rfl | hc
      · exact Nat.lt_of_le_of_ne (Nat.not_lt.mp hd) (hn d List.mem_cons_self)
      · exact h.1 c hc

/-- The memory with nothing listed is canonical. -/
theorem Memory.wf_nil (font : Font) : Memory.wf font [] := ⟨.nil, fun _ hc => nomatch hc⟩

/-- Every write keeps the canonical form. -/
theorem Memory.wf_write {font : Font} {m : Memory} (a : Nat) (v : Byte) (h : Memory.wf font m) :
    Memory.wf font (Memory.write font m a v) := by
  unfold Memory.write
  by_cases ha : a < memSize
  · simp only [ha, if_true, Memory.put]
    have he : Memory.wf font (Memory.erase m a) :=
      ⟨Memory.erase_sorted a h.1, fun c hc => h.2 c (Memory.mem_erase.mp hc).1⟩
    split
    · exact he
    · next hv =>
      refine ⟨Memory.insert_sorted v he.1 fun c hc => (Memory.mem_erase.mp hc).2, fun c hc => ?_⟩
      rcases Memory.mem_insert.mp hc with rfl | hc
      · exact ⟨ha, hv⟩
      · exact he.2 c hc
  · simpa [ha] using h

theorem State.readByte_writeByte (s : State) (a b : Nat) (v : Byte) :
    (s.writeByte a v).readByte b = if b = a ∧ a < memSize then v else s.readByte b :=
  Memory.read_write s.cfg.font s.mem a b v

end Sys2Proof.Machine
end

