-- ==== Sys2Proof/Laws/Ops.lean ====
section
/-! SUPPORT. One spec lemma per shared operation: everything a caller needs of it without unfolding it. -/

namespace Sys2Proof.Machine

/-! ## Registers -/

theorem State.reg_setReg (s : State) (x r : Reg) (v : Byte) :
    (s.setReg x v).reg r = if r = x then v else s.reg r := by
  simp only [State.reg, State.setReg_regs, Fin.getElem_fin, Vector.getElem_set, Fin.ext_iff, eq_comm]

theorem State.reg_setRegFlag (s : State) (x r : Reg) (v : Byte) (b : Bool) :
    (s.setRegFlag x v b).reg r = if r = 15 then flagByte b else if r = x then v else s.reg r := by
  simp only [State.setRegFlag, State.setFlag, State.reg_setReg]

theorem State.reg_congr {s t : State} (h : t.regs = s.regs) (r : Reg) : t.reg r = s.reg r := by
  simp only [State.reg, h]

/-- `setRegs` puts `bytes[k]` in register `start + k`, and leaves the other registers alone. -/
theorem State.reg_setRegs (s : State) (start : Nat) (bytes : List Byte) (r : Reg) :
    (s.setRegs start bytes).reg r =
      if h : start ≤ r.val ∧ r.val < start + bytes.length then bytes[r.val - start]'(by omega) else s.reg r := by
  induction bytes generalizing s start with
  | nil =>
    rw [State.setRegs, dif_neg (by simp only [List.length_nil]; omega)]
  | cons b bytes ih =>
    rw [State.setRegs, ih]
    simp only [State.reg, Fin.getElem_fin, Vector.getElem_setIfInBounds, List.length_cons]
    by_cases h0 : start = r.val
    · have h1 : ¬(start + 1 ≤ r.val ∧ r.val < start + 1 + bytes.length) := by omega
      have h2 : start ≤ r.val ∧ r.val < start + (bytes.length + 1) := by omega
      rw [dif_neg h1, dif_pos h2]
      simp [h0]
    · by_cases h1 : start + 1 ≤ r.val ∧ r.val < start + 1 + bytes.length
      · have h2 : start ≤ r.val ∧ r.val < start + (bytes.length + 1) := by omega
        rw [dif_pos h1, dif_pos h2, List.getElem_cons]
        have h3 : ¬(r.val - start = 0) := by omega
        simp only [h3, dif_neg, not_false_eq_true]
        congr 1
      · have h2 : ¬(start ≤ r.val ∧ r.val < start + (bytes.length + 1)) := by omega
        rw [dif_neg h1, dif_neg h2, if_neg h0]

@[simp] theorem State.readSeq_length (s : State) (a n : Nat) : (s.readSeq a n).length = n := by
  simp [State.readSeq]

@[simp] theorem State.readSeq_getElem (s : State) (a n k : Nat) (h : k < (s.readSeq a n).length) :
    (s.readSeq a n)[k] = s.readByte (a + k) := by
  simp [State.readSeq]

@[simp] theorem State.firstRegs_length (s : State) (n : Nat) : (s.firstRegs n).length = min n 16 := by
  simp [State.firstRegs]

@[simp] theorem State.firstRegs_getElem (s : State) (n k : Nat) (h : k < (s.firstRegs n).length) :
    (s.firstRegs n)[k] = s.reg ⟨k, by simp at h; omega⟩ := by
  simp [State.firstRegs, State.reg]

/-! ## Memory -/

theorem State.readByte_congr {s t : State} (hm : t.mem = s.mem) (hc : t.cfg = s.cfg) (a : Nat) :
    t.readByte a = s.readByte a := by
  simp only [State.readByte, hm, hc]

/-- `writeSeq` stores `bytes[k]` at `start + k` where that address is in memory, and leaves every other address
alone (R42). -/
theorem State.readByte_writeSeq (s : State) (start : Nat) (bytes : List Byte) (a : Nat) :
    (s.writeSeq start bytes).readByte a =
      if h : start ≤ a ∧ a < start + bytes.length ∧ a < memSize then bytes[a - start]'(by omega)
      else s.readByte a := by
  induction bytes generalizing s start with
  | nil =>
    rw [State.writeSeq, dif_neg (by simp only [List.length_nil]; omega)]
  | cons b bytes ih =>
    rw [State.writeSeq, ih, State.readByte_writeByte]
    simp only [List.length_cons]
    by_cases h0 : a = start
    · subst h0
      have h1 : ¬(a + 1 ≤ a ∧ a < a + 1 + bytes.length ∧ a < memSize) := by omega
      rw [dif_neg h1]
      by_cases hm : a < memSize
      · have h2 : a ≤ a ∧ a < a + (bytes.length + 1) ∧ a < memSize := by omega
        rw [dif_pos h2]
        simp [hm]
      · have h2 : ¬(a ≤ a ∧ a < a + (bytes.length + 1) ∧ a < memSize) := by omega
        rw [dif_neg h2]
        simp [hm]
    · simp only [h0, false_and, if_false]
      by_cases h1 : start + 1 ≤ a ∧ a < start + 1 + bytes.length ∧ a < memSize
      · have h2 : start ≤ a ∧ a < start + (bytes.length + 1) ∧ a < memSize := by omega
        rw [dif_pos h1, dif_pos h2, List.getElem_cons]
        have h3 : ¬(a - start = 0) := by omega
        simp only [h3, dif_neg, not_false_eq_true]
        congr 1
      · have h2 : ¬(start ≤ a ∧ a < start + (bytes.length + 1) ∧ a < memSize) := by omega
        rw [dif_neg h1, dif_neg h2]

/-- `writeSeq` keeps the canonical form. -/
theorem State.wf_writeSeq {s : State} (start : Nat) (bytes : List Byte) (h : Memory.wf s.cfg.font s.mem) :
    Memory.wf s.cfg.font (s.writeSeq start bytes).mem := by
  induction bytes generalizing s start with
  | nil => exact h
  | cons b bytes ih => exact ih (s := s.writeByte start b) (start + 1) (Memory.wf_write start b h)

/-! ## Program counter -/

theorem State.skipIf_pc (s : State) (c : Bool) : (s.skipIf c).pc = if c then s.pc + 2 else s.pc := by
  cases c <;> rfl

/-! ## Call stack -/

/-- `Push` (R17): stored on top, or dropped when the stack is full. -/
theorem State.push_cases (s : State) (v : Word) :
    (∃ h : s.sp.val < 16, s.push v = { s with stk := s.stk.set s.sp.val v, sp := ⟨s.sp.val + 1, by omega⟩ }) ∨
    (s.sp.val = 16 ∧ s.push v = s) := by
  by_cases h : s.sp.val < 16
  · exact .inl ⟨h, by simp [State.push, h]⟩
  · exact .inr ⟨by omega, by simp [State.push, h]⟩

/-- `Pop` (R18): the top entry, or 0 with the stack unchanged when it is empty. -/
theorem State.pop_cases (s : State) :
    (∃ h : 0 < s.sp.val,
      s.pop = (s.stk[s.sp.val - 1]'(by omega), { s with sp := ⟨s.sp.val - 1, by omega⟩ })) ∨
    (s.sp.val = 0 ∧ s.pop = (0, s)) := by
  by_cases h : 0 < s.sp.val
  · exact .inl ⟨h, by simp [State.pop, h]⟩
  · exact .inr ⟨by omega, by simp [State.pop, h]⟩

/-! ## Keys -/

/-- `firstDown` finds the lowest key that is down, counted from `k`, or tells that none is. -/
theorem firstDown_cases (keys : List Bool) (k : Nat) :
    (firstDown keys k = none ∧ ∀ j, (h : j < keys.length) → keys[j] = false) ∨
    (∃ j, ∃ h : j < keys.length, firstDown keys k = some (k + j) ∧ keys[j] = true ∧
      ∀ i, (hi : i < j) → keys[i]'(by omega) = false) := by
  induction keys generalizing k with
  | nil => exact .inl ⟨rfl, fun j h => absurd h (Nat.not_lt_zero j)⟩
  | cons b keys ih =>
    cases b with
    | true =>
      refine .inr ⟨0, by simp, rfl, rfl, fun i hi => absurd hi (Nat.not_lt_zero i)⟩
    | false =>
      rcases ih (k + 1) with ⟨hn, hall⟩ | ⟨j, hj, hs, hd, hlow⟩
      · refine .inl ⟨by simpa [firstDown] using hn, fun j h => ?_⟩
        cases j with
        | zero => rfl
        | succ j => simpa using hall j (by simpa using h)
      · refine .inr ⟨j + 1, by simpa using hj, ?_, by simpa using hd, fun i hi => ?_⟩
        · have : k + 1 + j = k + (j + 1) := by omega
          simpa [firstDown, this] using hs
        · cases i with
          | zero => rfl
          | succ i => simpa using hlow i (by omega)

end Sys2Proof.Machine
end

