-- ==== Sys2Proof/Laws/PerInstr.lean ====
section
/-! SUPPORT. One lemma per instruction, for the statements about instructions as syntax. Family `WellFormed`: every
instruction is well formed (30_encoding.md R61, R62, R63), because each field has exactly the width its format gives
it. -/

namespace Sys2Proof.Laws

/-- The instruction's line passes the check of its format. -/
def WellFormed.Statement (i : Instr) : Prop := i.wellFormed = true

theorem WellFormed.cls : WellFormed.Statement .cls := rfl

theorem WellFormed.ret : WellFormed.Statement .ret := rfl

theorem WellFormed.jp (nnn : Addr12) : WellFormed.Statement (.jp nnn) := by
  simp [WellFormed.Statement, Instr.wellFormed, AsmLine.wellFormed, Instr.asmLine, Instr.mnemonic, Instr.operands,
    Mnemonic.format, Format.accepts, BitVec.isLt nnn]

theorem WellFormed.call (nnn : Addr12) : WellFormed.Statement (.call nnn) := by
  simp [WellFormed.Statement, Instr.wellFormed, AsmLine.wellFormed, Instr.asmLine, Instr.mnemonic, Instr.operands,
    Mnemonic.format, Format.accepts, BitVec.isLt nnn]

theorem WellFormed.se (x : Reg) (nn : Byte) : WellFormed.Statement (.se x nn) := by
  simp [WellFormed.Statement, Instr.wellFormed, AsmLine.wellFormed, Instr.asmLine, Instr.mnemonic, Instr.operands,
    Mnemonic.format, Format.accepts, Fin.isLt x, BitVec.isLt nn]

theorem WellFormed.sne (x : Reg) (nn : Byte) : WellFormed.Statement (.sne x nn) := by
  simp [WellFormed.Statement, Instr.wellFormed, AsmLine.wellFormed, Instr.asmLine, Instr.mnemonic, Instr.operands,
    Mnemonic.format, Format.accepts, Fin.isLt x, BitVec.isLt nn]

theorem WellFormed.ser (x y : Reg) : WellFormed.Statement (.ser x y) := by
  simp [WellFormed.Statement, Instr.wellFormed, AsmLine.wellFormed, Instr.asmLine, Instr.mnemonic, Instr.operands,
    Mnemonic.format, Format.accepts, Fin.isLt x, Fin.isLt y]

theorem WellFormed.ld (x : Reg) (nn : Byte) : WellFormed.Statement (.ld x nn) := by
  simp [WellFormed.Statement, Instr.wellFormed, AsmLine.wellFormed, Instr.asmLine, Instr.mnemonic, Instr.operands,
    Mnemonic.format, Format.accepts, Fin.isLt x, BitVec.isLt nn]

theorem WellFormed.add (x : Reg) (nn : Byte) : WellFormed.Statement (.add x nn) := by
  simp [WellFormed.Statement, Instr.wellFormed, AsmLine.wellFormed, Instr.asmLine, Instr.mnemonic, Instr.operands,
    Mnemonic.format, Format.accepts, Fin.isLt x, BitVec.isLt nn]

theorem WellFormed.mov (x y : Reg) : WellFormed.Statement (.mov x y) := by
  simp [WellFormed.Statement, Instr.wellFormed, AsmLine.wellFormed, Instr.asmLine, Instr.mnemonic, Instr.operands,
    Mnemonic.format, Format.accepts, Fin.isLt x, Fin.isLt y]

theorem WellFormed.or (x y : Reg) : WellFormed.Statement (.or x y) := by
  simp [WellFormed.Statement, Instr.wellFormed, AsmLine.wellFormed, Instr.asmLine, Instr.mnemonic, Instr.operands,
    Mnemonic.format, Format.accepts, Fin.isLt x, Fin.isLt y]

theorem WellFormed.and (x y : Reg) : WellFormed.Statement (.and x y) := by
  simp [WellFormed.Statement, Instr.wellFormed, AsmLine.wellFormed, Instr.asmLine, Instr.mnemonic, Instr.operands,
    Mnemonic.format, Format.accepts, Fin.isLt x, Fin.isLt y]

theorem WellFormed.xor (x y : Reg) : WellFormed.Statement (.xor x y) := by
  simp [WellFormed.Statement, Instr.wellFormed, AsmLine.wellFormed, Instr.asmLine, Instr.mnemonic, Instr.operands,
    Mnemonic.format, Format.accepts, Fin.isLt x, Fin.isLt y]

theorem WellFormed.addc (x y : Reg) : WellFormed.Statement (.addc x y) := by
  simp [WellFormed.Statement, Instr.wellFormed, AsmLine.wellFormed, Instr.asmLine, Instr.mnemonic, Instr.operands,
    Mnemonic.format, Format.accepts, Fin.isLt x, Fin.isLt y]

theorem WellFormed.sub (x y : Reg) : WellFormed.Statement (.sub x y) := by
  simp [WellFormed.Statement, Instr.wellFormed, AsmLine.wellFormed, Instr.asmLine, Instr.mnemonic, Instr.operands,
    Mnemonic.format, Format.accepts, Fin.isLt x, Fin.isLt y]

theorem WellFormed.shr (x y : Reg) : WellFormed.Statement (.shr x y) := by
  simp [WellFormed.Statement, Instr.wellFormed, AsmLine.wellFormed, Instr.asmLine, Instr.mnemonic, Instr.operands,
    Mnemonic.format, Format.accepts, Fin.isLt x, Fin.isLt y]

theorem WellFormed.subn (x y : Reg) : WellFormed.Statement (.subn x y) := by
  simp [WellFormed.Statement, Instr.wellFormed, AsmLine.wellFormed, Instr.asmLine, Instr.mnemonic, Instr.operands,
    Mnemonic.format, Format.accepts, Fin.isLt x, Fin.isLt y]

theorem WellFormed.shl (x y : Reg) : WellFormed.Statement (.shl x y) := by
  simp [WellFormed.Statement, Instr.wellFormed, AsmLine.wellFormed, Instr.asmLine, Instr.mnemonic, Instr.operands,
    Mnemonic.format, Format.accepts, Fin.isLt x, Fin.isLt y]

theorem WellFormed.sner (x y : Reg) : WellFormed.Statement (.sner x y) := by
  simp [WellFormed.Statement, Instr.wellFormed, AsmLine.wellFormed, Instr.asmLine, Instr.mnemonic, Instr.operands,
    Mnemonic.format, Format.accepts, Fin.isLt x, Fin.isLt y]

theorem WellFormed.ldi (nnn : Addr12) : WellFormed.Statement (.ldi nnn) := by
  simp [WellFormed.Statement, Instr.wellFormed, AsmLine.wellFormed, Instr.asmLine, Instr.mnemonic, Instr.operands,
    Mnemonic.format, Format.accepts, BitVec.isLt nnn]

theorem WellFormed.jp0 (nnn : Addr12) : WellFormed.Statement (.jp0 nnn) := by
  simp [WellFormed.Statement, Instr.wellFormed, AsmLine.wellFormed, Instr.asmLine, Instr.mnemonic, Instr.operands,
    Mnemonic.format, Format.accepts, BitVec.isLt nnn]

theorem WellFormed.rnd (x : Reg) (nn : Byte) : WellFormed.Statement (.rnd x nn) := by
  simp [WellFormed.Statement, Instr.wellFormed, AsmLine.wellFormed, Instr.asmLine, Instr.mnemonic, Instr.operands,
    Mnemonic.format, Format.accepts, Fin.isLt x, BitVec.isLt nn]

theorem WellFormed.drw (x y : Reg) (n : Fin 16) : WellFormed.Statement (.drw x y n) := by
  simp [WellFormed.Statement, Instr.wellFormed, AsmLine.wellFormed, Instr.asmLine, Instr.mnemonic, Instr.operands,
    Mnemonic.format, Format.accepts, Fin.isLt x, Fin.isLt y, Fin.isLt n]

theorem WellFormed.skp (x : Reg) : WellFormed.Statement (.skp x) := by
  simp [WellFormed.Statement, Instr.wellFormed, AsmLine.wellFormed, Instr.asmLine, Instr.mnemonic, Instr.operands,
    Mnemonic.format, Format.accepts, Fin.isLt x]

theorem WellFormed.sknp (x : Reg) : WellFormed.Statement (.sknp x) := by
  simp [WellFormed.Statement, Instr.wellFormed, AsmLine.wellFormed, Instr.asmLine, Instr.mnemonic, Instr.operands,
    Mnemonic.format, Format.accepts, Fin.isLt x]

theorem WellFormed.lddt (x : Reg) : WellFormed.Statement (.lddt x) := by
  simp [WellFormed.Statement, Instr.wellFormed, AsmLine.wellFormed, Instr.asmLine, Instr.mnemonic, Instr.operands,
    Mnemonic.format, Format.accepts, Fin.isLt x]

theorem WellFormed.ldk (x : Reg) : WellFormed.Statement (.ldk x) := by
  simp [WellFormed.Statement, Instr.wellFormed, AsmLine.wellFormed, Instr.asmLine, Instr.mnemonic, Instr.operands,
    Mnemonic.format, Format.accepts, Fin.isLt x]

theorem WellFormed.stdt (x : Reg) : WellFormed.Statement (.stdt x) := by
  simp [WellFormed.Statement, Instr.wellFormed, AsmLine.wellFormed, Instr.asmLine, Instr.mnemonic, Instr.operands,
    Mnemonic.format, Format.accepts, Fin.isLt x]

theorem WellFormed.stst (x : Reg) : WellFormed.Statement (.stst x) := by
  simp [WellFormed.Statement, Instr.wellFormed, AsmLine.wellFormed, Instr.asmLine, Instr.mnemonic, Instr.operands,
    Mnemonic.format, Format.accepts, Fin.isLt x]

theorem WellFormed.addi (x : Reg) : WellFormed.Statement (.addi x) := by
  simp [WellFormed.Statement, Instr.wellFormed, AsmLine.wellFormed, Instr.asmLine, Instr.mnemonic, Instr.operands,
    Mnemonic.format, Format.accepts, Fin.isLt x]

theorem WellFormed.font (x : Reg) : WellFormed.Statement (.font x) := by
  simp [WellFormed.Statement, Instr.wellFormed, AsmLine.wellFormed, Instr.asmLine, Instr.mnemonic, Instr.operands,
    Mnemonic.format, Format.accepts, Fin.isLt x]

theorem WellFormed.bcd (x : Reg) : WellFormed.Statement (.bcd x) := by
  simp [WellFormed.Statement, Instr.wellFormed, AsmLine.wellFormed, Instr.asmLine, Instr.mnemonic, Instr.operands,
    Mnemonic.format, Format.accepts, Fin.isLt x]

theorem WellFormed.stm (x : Reg) : WellFormed.Statement (.stm x) := by
  simp [WellFormed.Statement, Instr.wellFormed, AsmLine.wellFormed, Instr.asmLine, Instr.mnemonic, Instr.operands,
    Mnemonic.format, Format.accepts, Fin.isLt x]

theorem WellFormed.ldm (x : Reg) : WellFormed.Statement (.ldm x) := by
  simp [WellFormed.Statement, Instr.wellFormed, AsmLine.wellFormed, Instr.asmLine, Instr.mnemonic, Instr.operands,
    Mnemonic.format, Format.accepts, Fin.isLt x]

end Sys2Proof.Laws
end

