-- ==== Sys2Proof/Laws/Step.lean ====
section
/-! SUPPORT. What one step can do: the four kinds of host operation, and the three ways of `step(keys)`. -/

namespace Sys2Proof.Machine

/-- Taking the next operation from the queue changes the queue only. -/
theorem State.nextOp_state (s : State) : s.nextOp.2 = { s with host := s.nextOp.2.host } := by
  unfold State.nextOp
  split <;> rfl

theorem State.nextOp_of_nil {s : State} (h : s.host = []) : s.nextOp = (.step s.keys, s) := by
  simp [State.nextOp, h]

theorem State.nextOp_of_cons {s : State} {op : HostOp} {rest : List HostOp} (h : s.host = op :: rest) :
    s.nextOp = (op, { s with host := rest }) := by
  simp [State.nextOp, h]

theorem step_of_nextOp {s s0 : State} {op : HostOp} (h : s.nextOp = (op, s0)) : step s = applyOp op s0 := by
  rw [step, h]

theorem execute_ok {op : Word} {i : Instr} (h : decode op = .ok i) (s : State) : execute op s = exec i s := by
  unfold execute
  rw [h]

theorem execute_error {op : Word} {r : Reject} (h : decode op = .error r) (s : State) : execute op s = .next s := by
  unfold execute
  rw [h]
  rfl

/-- In `Running`, one fetch and the word executed (R80, R81). -/
theorem stepOp_execute {s : State} (keys : KeyVector) (hw : s.wait = .running) :
    stepOp keys s = execute s.fetchWord { s with keys := keys, pc := s.pc + 2 } := by
  unfold stepOp
  split
  · next h => rw [hw] at h; cases h
  · rfl

/-- In `Running`, a recognised word is executed after the fetch (R80, R81, R83). -/
theorem stepOp_running {s : State} (keys : KeyVector) {i : Instr} (hw : s.wait = .running)
    (hd : decode s.fetchWord = .ok i) : stepOp keys s = exec i { s with keys := keys, pc := s.pc + 2 } := by
  rw [stepOp_execute keys hw, execute_ok hd]

/-- In `Running`, an unrecognised word does nothing after the fetch (R70). -/
theorem stepOp_unrecognised {s : State} (keys : KeyVector) {r : Reject} (hw : s.wait = .running)
    (hd : decode s.fetchWord = .error r) : stepOp keys s = .next { s with keys := keys, pc := s.pc + 2 } := by
  rw [stepOp_execute keys hw, execute_error hd]

/-- In `AwaitingKey`, one scan of the keys (R80, R155). -/
theorem stepOp_waiting {s : State} (keys : KeyVector) {r : Reg} (hw : s.wait = .awaitingKey r) :
    stepOp keys s = .next ((s.latchKeys keys).awaitStep r) := by
  unfold stepOp
  rw [hw]

/-- `AwaitStep` (R155): the lowest key down, or nothing. -/
theorem State.awaitStep_cases (s : State) (r : Reg) :
    ((∀ k : Fin 16, s.keys[k] = false) ∧ s.awaitStep r = s) ∨
    (∃ k : Fin 16, s.keys[k] = true ∧ (∀ j, j < k → s.keys[j] = false) ∧
      s.awaitStep r = (s.setReg r (BitVec.ofNat 8 k.val)).setWait .running) := by
  rcases firstDown_cases s.keys.toList 0 with ⟨hn, hall⟩ | ⟨k, hk, hs, hd, hlow⟩
  · refine .inl ⟨fun k => by simpa using hall k.val (by simp), ?_⟩
    simp [State.awaitStep, State.firstKey, hn]
  · refine .inr ⟨⟨k, by simpa using hk⟩, by simpa using hd, fun j hj => by simpa using hlow j.val hj, ?_⟩
    simp [State.awaitStep, State.firstKey, hs]

/-- Both timers go down by 1 with a floor at 0 (R167). -/
theorem tickDown_toNat (t : Byte) : (tickDown t).toNat = t.toNat - 1 := by
  unfold tickDown
  split
  · next h => simp [h]
  · next h =>
    have h0 : t.toNat ≠ 0 := fun hh => h (BitVec.eq_of_toNat_eq (by simpa using hh))
    have h1 := t.isLt
    rw [BitVec.toNat_sub]
    simp
    omega

end Sys2Proof.Machine
end

