-- ==== Sys2Proof/Tests/Slice0.lean ====
section
/-! SUPPORT. The model's own tests. Expected results are the worked examples of the instruction rules and the vectors of
spec/95_test_vectors.md (named in each comment); words are written out from the encodings of 30_encoding.md R65.
Theorems named `witness_…` show a state and operands that meet the hypotheses of a statement. -/

namespace Sys2Proof.Tests

open Sys2Proof.Machine

/-- The next state of an outcome. -/
def after : Host.Outcome State Fault Refusal → State
  | .next s => s
  | .fault _ => State.reset
  | .refused _ => State.reset

/-- One step that fetches the word `w` at `s.pc`. -/
def run (w : Nat) (s : State) : State := after (step (s.withFetchWord 16 w))

/-- The reset state with registers 0, 1, ... set. -/
def regs (vs : List Byte) : State := State.reset.setRegs 0 vs

/-- The key vector with the listed keys down. -/
def keysDown (ks : List Nat) : KeyVector :=
  ks.foldl (fun v k => v.setIfInBounds k true) (Vector.replicate 16 false)

/-- The state with `SP` = 1 and `STK[0]` = 0x0206. -/
def oneCall : State := State.reset.push 0x0206

/-- The state with a full stack, every entry 0x0222. -/
def fullStack : State := { State.reset with sp := 16, stk := Vector.replicate 16 0x0222 }

/-! ## Decoding: every constructor by a word written out bit by bit -/

theorem test_decode_fixed : decode 0b0000000011100000#16 = .ok .cls ∧ decode 0b0000000011101110#16 = .ok .ret := by
  decide

theorem test_decode_nnn :
    decode 0b0001101010111100#16 = .ok (.jp 0xABC) ∧ decode 0b0010001000001010#16 = .ok (.call 0x20A) ∧
    decode 0b1010001100000000#16 = .ok (.ldi 0x300) ∧ decode 0b1011111111111111#16 = .ok (.jp0 0xFFF) := by
  decide

theorem test_decode_xnn :
    decode 0b0011000100000000#16 = .ok (.se 1 0x00) ∧ decode 0b0100000100000101#16 = .ok (.sne 1 0x05) ∧
    decode 0b0110101000111110#16 = .ok (.ld 10 0x3E) ∧ decode 0b0111000111111111#16 = .ok (.add 1 0xFF) ∧
    decode 0b1100000100001111#16 = .ok (.rnd 1 0x0F) := by
  decide

theorem test_decode_xy :
    decode 0b0101000100100000#16 = .ok (.ser 1 2) ∧ decode 0b1000000100100000#16 = .ok (.mov 1 2) ∧
    decode 0b1000000100100001#16 = .ok (.or 1 2) ∧ decode 0b1000000100100010#16 = .ok (.and 1 2) ∧
    decode 0b1000000100100011#16 = .ok (.xor 1 2) ∧ decode 0b1000101010110100#16 = .ok (.addc 10 11) ∧
    decode 0b1000000000010101#16 = .ok (.sub 0 1) ∧ decode 0b1000000100000110#16 = .ok (.shr 1 0) ∧
    decode 0b1000000000010111#16 = .ok (.subn 0 1) ∧ decode 0b1000101010111110#16 = .ok (.shl 10 11) ∧
    decode 0b1001000100100000#16 = .ok (.sner 1 2) := by
  decide

theorem test_decode_xyn : decode 0b1101101010110011#16 = .ok (.drw 10 11 3) := by decide

theorem test_decode_x :
    decode 0b1110001010011110#16 = .ok (.skp 2) ∧ decode 0b1110000110100001#16 = .ok (.sknp 1) ∧
    decode 0b1111001000000111#16 = .ok (.lddt 2) ∧ decode 0b1111001100001010#16 = .ok (.ldk 3) ∧
    decode 0b1111000000010101#16 = .ok (.stdt 0) ∧ decode 0b1111000000011000#16 = .ok (.stst 0) ∧
    decode 0b1111000100011110#16 = .ok (.addi 1) ∧ decode 0b1111000000101001#16 = .ok (.font 0) ∧
    decode 0b1111000000110011#16 = .ok (.bcd 0) ∧ decode 0b1111001001010101#16 = .ok (.stm 2) ∧
    decode 0b1111001101100101#16 = .ok (.ldm 3) := by
  decide

/-- Section 2.1 of 95_test_vectors.md: the words that select no row. -/
theorem test_decode_rejects :
    decode 0x0000 = .error .class0 ∧ decode 0x5121 = .error .class5 ∧ decode 0x8AB8 = .error .class8 ∧
    decode 0x9AB1 = .error .class9 ∧ decode 0xE29F = .error .classE ∧ decode 0xF366 = .error .classF := by
  decide

theorem test_decodeTableWord : decodeTableWord 16 0xD125 = some (.drw 1 2 5) ∧ decodeTableWord 16 0x01E0 = none := by
  decide

/-! ## WellFormed: one ill-formed line for each check, refused -/

theorem test_wf_refuses_register : AsmLine.wellFormed ⟨.LD, [16, 0]⟩ = false ∧ assemble ⟨.LD, [16, 0]⟩ = none := by decide
theorem test_wf_refuses_second_register :
    AsmLine.wellFormed ⟨.MOV, [0, 16]⟩ = false ∧ assemble ⟨.MOV, [0, 16]⟩ = none := by decide
theorem test_wf_refuses_single_register :
    AsmLine.wellFormed ⟨.SKP, [16]⟩ = false ∧ assemble ⟨.SKP, [16]⟩ = none := by decide
theorem test_wf_refuses_byte : AsmLine.wellFormed ⟨.SE, [0, 256]⟩ = false ∧ assemble ⟨.SE, [0, 256]⟩ = none := by decide
theorem test_wf_refuses_address : AsmLine.wellFormed ⟨.JP, [4096]⟩ = false ∧ assemble ⟨.JP, [4096]⟩ = none := by decide
theorem test_wf_refuses_height :
    AsmLine.wellFormed ⟨.DRW, [1, 2, 16]⟩ = false ∧ assemble ⟨.DRW, [1, 2, 16]⟩ = none := by decide
theorem test_wf_refuses_draw_registers :
    AsmLine.wellFormed ⟨.DRW, [16, 2, 5]⟩ = false ∧ AsmLine.wellFormed ⟨.DRW, [1, 16, 5]⟩ = false := by decide
theorem test_wf_refuses_first_of_two : AsmLine.wellFormed ⟨.MOV, [16, 0]⟩ = false := by decide
theorem test_wf_refuses_operand_count :
    AsmLine.wellFormed ⟨.CLS, [0]⟩ = false ∧ AsmLine.wellFormed ⟨.ADD, [1]⟩ = false ∧ assemble ⟨.ADD, [1]⟩ = none := by
  decide

/-- The first and last lines of program P3, with its data: the image bytes printed there. -/
theorem test_program_image :
    programImage [.line ⟨.LD, [10, 62]⟩, .line ⟨.DRW, [10, 11, 3]⟩, .line ⟨.JP, [0x20A]⟩, .db [0xF0, 0x90, 0xF0]] =
      some [0x6A, 0x3E, 0xDA, 0xB3, 0x12, 0x0A, 0xF0, 0x90, 0xF0] := by decide
/-- Program P1 of 95_test_vectors.md: its text gives its image bytes (labels before and after their use). -/
theorem test_text_image_P1 :
    textImage ("LD V0, 0\nLD V1, 5\nloop: ADDC V0, V1\nADD V1, 0xFF\n" ++ "SE V1, 0\nJP loop\ndone: JP done") =
      some [0x60, 0x00, 0x61, 0x05, 0x80, 0x14, 0x71, 0xFF, 0x31, 0x00, 0x12, 0x04, 0x12, 0x0C] := by decide

/-- Program P3 of 95_test_vectors.md: a label of data, and the directive `DB`. -/
theorem test_text_image_P3 :
    textImage ("LD VA, 62\nLD VB, 30\nLDI sprite\nDRW VA, VB, 3\n" ++
      "DRW VA, VB, 3\ndone: JP done\nsprite: DB 0xF0, 0x90, 0xF0") =
      some [0x6A, 0x3E, 0x6B, 0x1E, 0xA2, 0x0C, 0xDA, 0xB3, 0xDA, 0xB3, 0x12, 0x0A, 0xF0, 0x90, 0xF0] := by decide

/-- Refused texts: a register where a number stands, a number where a register stands, an unknown name, a missing
label, a label at two places. -/
theorem test_text_image_refuses :
    textImage "JP V1" = none ∧ textImage "SKP 1" = none ∧ textImage "HALT" = none ∧ textImage "JP nowhere" = none ∧
    textImage "a: RET\na: RET" = none := by decide

/-- Log entry 28's choices: `VG` is a label that can be used; a register's name labels nothing; an empty line and a
`DB` with no bytes place nothing; two labels on one line are refused. -/
theorem test_text_choices :
    textImage "VG: JP VG" = some [0x12, 0x00] ∧ textImage "VA: RET" = none ∧ textImage "RET\n\nDB" = some [0x00, 0xEE] ∧
    textImage "a: b: RET" = none := by decide

theorem witness_LabelStandsForTheAddressOfWhatFollows :
    ['a'] ∉ (programLabels [.instr .RET []]).map Prod.fst ∧ sourceImage [.instr .RET []] = some [0x00, 0xEE] := by
  decide

theorem test_db_refuses_wide_byte : programImage [.db [256]] = none := by decide

/-! ## Fetch and step (section 2.2) -/

/-- V-F-2: the second byte of the word at 0xFFF is out of bounds and reads 0. -/
theorem test_fetch_at_top_of_memory : ((State.reset.writeByte 0xFFF 0x12).jump 0xFFF).fetchWord = 0x1200 := by decide
/-- V-F-5: 0x10000 is not address 0. -/
theorem test_step_at_FFFF : after (step (State.reset.jump 0xFFFF)) = State.reset.jump 0x0001 := by decide
/-- V-F-6: an odd `pc` is legal. -/
theorem test_step_at_odd_pc :
    (run 0x6007 (State.reset.jump 0x201)).reg 0 = 0x07 ∧ (run 0x6007 (State.reset.jump 0x201)).pc = 0x203 := by decide
/-- V-F-7: without a `load` the first step is a no-op. -/
theorem test_step_from_reset : after (step State.reset) = State.reset.jump 0x202 := by decide

/-! ## Control flow (section 2.3) -/

/-- V-C-5 and V-C-6. -/
theorem test_ret : (run 0x00EE oneCall).pc = 0x206 ∧ (run 0x00EE oneCall).sp = 0 ∧ (run 0x00EE oneCall).stk[0] = 0x206 := by
  decide
theorem test_ret_empty : (run 0x00EE State.reset).pc = 0 ∧ (run 0x00EE State.reset).sp = 0 := by decide
/-- V-C-1. -/
theorem test_jp : (run 0x1204 (State.reset.jump 0x20A)).pc = 0x204 := by decide
/-- V-C-3 and V-C-4. -/
theorem test_call : (run 0x220A (State.reset.jump 0x204)).stk[0] = 0x206 ∧ (run 0x220A (State.reset.jump 0x204)).sp = 1 ∧
    (run 0x220A (State.reset.jump 0x204)).pc = 0x20A := by decide
theorem test_call_full : (run 0x2300 (fullStack.jump 0x250)).stk = fullStack.stk ∧
    (run 0x2300 (fullStack.jump 0x250)).sp = 16 ∧ (run 0x2300 (fullStack.jump 0x250)).pc = 0x300 := by decide
/-- V-C-8. -/
theorem test_jp0 : (run 0xBFFF (regs [0xFF])).pc = 0x10FE := by decide
/-- V-C-10 and V-C-11. -/
theorem test_se : (run 0x3100 ((regs [9, 0]).jump 0x208)).pc = 0x20C := by decide
theorem test_se_not : (run 0x3100 ((regs [0, 1]).jump 0x208)).pc = 0x20A := by decide
/-- V-C-12 and V-C-13. -/
theorem test_sne : (run 0x4105 (regs [5, 4])).pc = 0x204 := by decide
theorem test_sne_not : (run 0x4105 (regs [4, 5])).pc = 0x202 := by decide
/-- V-C-14. -/
theorem test_ser : (run 0x5120 (regs [0, 7, 7])).pc = 0x204 := by decide
theorem test_ser_not : (run 0x5120 (regs [7, 7, 8])).pc = 0x202 := by decide
/-- V-C-16 and V-C-17. -/
theorem test_sner : (run 0x9120 (regs [7, 7, 8])).pc = 0x204 := by decide
theorem test_sner_not : (run 0x9110 (regs [0, 7, 8])).pc = 0x202 := by decide
/-- V-C-18, V-C-19 and V-C-20. -/
theorem test_skp : (run 0xE19E ((regs [0, 7]).latchKeys (keysDown [7]))).pc = 0x204 := by decide
theorem test_skp_no_such_key :
    (run 0xE19E ((regs [0, 23]).latchKeys (Vector.replicate 16 true))).pc = 0x202 := by decide
/-- V-C-21 and V-C-23. -/
theorem test_sknp : (run 0xE1A1 ((regs [0, 7]).latchKeys (keysDown [7]))).pc = 0x202 := by decide
theorem test_sknp_no_such_key :
    (run 0xE1A1 ((regs [0, 0xFF]).latchKeys (Vector.replicate 16 true))).pc = 0x204 := by decide

/-! ## Arithmetic and logic (section 2.4) -/

/-- V-A-1 and V-A-3 to V-A-9. -/
theorem test_ld : (run 0x6A3E State.reset).reg 10 = 0x3E ∧ (run 0x6A3E State.reset).reg 15 = 0 := by decide
theorem test_add : (run 0x71FF (regs [0, 5])).reg 1 = 4 := by decide
theorem test_add_no_flag : (run 0x7101 (regs [0, 0xFF])).reg 1 = 0 ∧ (run 0x7101 (regs [0, 0xFF])).reg 15 = 0 := by decide
theorem test_mov : (run 0x8120 (regs [0, 1, 0x7B])).reg 1 = 0x7B := by decide
theorem test_or : (run 0x8121 ((regs [0, 0xF0, 0x0F]).setReg 15 1)).reg 1 = 0xFF ∧
    (run 0x8121 ((regs [0, 0xF0, 0x0F]).setReg 15 1)).reg 15 = 1 := by decide
theorem test_and : (run 0x8122 (regs [0, 0xF0, 0x3C])).reg 1 = 0x30 := by decide
theorem test_xor : (run 0x8123 (regs [0, 0xF0, 0x3C])).reg 1 = 0xCC := by decide
/-- S4 and V-A-14. -/
theorem test_addc : (run 0x8014 (regs [0xFF, 1])).reg 0 = 0 ∧ (run 0x8014 (regs [0xFF, 1])).reg 15 = 1 := by decide
theorem test_addc_into_flag : (run 0x8F14 ((regs [0, 2]).setReg 15 3)).reg 15 = 0 := by decide
/-- S5 and V-A-17. -/
theorem test_sub : (run 0x8015 (regs [3, 5])).reg 0 = 0xFE ∧ (run 0x8015 (regs [3, 5])).reg 15 = 0 := by decide
theorem test_sub_equal : (run 0x8015 (regs [7, 7])).reg 0 = 0 ∧ (run 0x8015 (regs [7, 7])).reg 15 = 1 := by decide
/-- V-A-26 and V-A-27. -/
theorem test_shr : (run 0x8126 (regs [0, 0xFF, 4])).reg 1 = 0x7F ∧ (run 0x8126 (regs [0, 0xFF, 4])).reg 15 = 1 := by decide
theorem test_shr_source_y :
    let s := { regs [0, 0xFF, 4] with cfg := { Config.default with shiftSrc := .y } }
    (run 0x8126 s).reg 1 = 2 ∧ (run 0x8126 s).reg 15 = 0 ∧ (run 0x8126 s).reg 2 = 4 := by decide
/-- V-A-19 and V-A-20. -/
theorem test_subn : (run 0x8017 (regs [3, 5])).reg 0 = 2 ∧ (run 0x8017 (regs [3, 5])).reg 15 = 1 := by decide
theorem test_subn_borrow : (run 0x8017 (regs [5, 3])).reg 0 = 0xFE ∧ (run 0x8017 (regs [5, 3])).reg 15 = 0 := by decide
/-- S6 and V-A-31. -/
theorem test_shl : (run 0x811E (regs [0, 0x81])).reg 1 = 2 ∧ (run 0x811E (regs [0, 0x81])).reg 15 = 1 := by decide
theorem test_shl_of_flag : (run 0x8F0E (State.reset.setReg 15 0x81)).reg 15 = 1 := by decide
/-- V-A-32, and one fresh draw a run. -/
theorem test_rnd_mask : (State.reset.setRandom 1 0xA7 0x0F).reg 1 = 7 := by decide
theorem test_rnd_draws : (run 0xC10F State.reset).draws = 1 := by decide

/-! ## Index register and memory (section 2.5) -/

/-- V-M-2. -/
theorem test_ldi : (run 0xAFFF (State.reset.setIdx 0xFFFF)).idx = 0x0FFF := by decide
/-- V-M-4 and V-M-5. -/
theorem test_addi : (run 0xF11E ((regs [0, 1]).setIdx 0x0FFF)).idx = 0x1000 := by decide
theorem test_addi_wraps : (run 0xF11E ((regs [0, 0xFF]).setIdx 0xFFF0)).idx = 0x00EF := by decide
/-- V-M-6 and V-M-8. -/
theorem test_font : (run 0xF029 (regs [0x0A])).idx = 0x32 := by decide
theorem test_font_unmasked : (run 0xF029 (regs [0xFF])).idx = 0x4FB := by decide
/-- S11 and V-M-13. -/
theorem test_bcd : (run 0xF033 ((regs [0xEA]).setIdx 0x300)).readSeq 0x300 3 = [2, 3, 4] := by decide
theorem test_bcd_at_top : (run 0xF033 ((regs [0xEA]).setIdx 0xFFE)).readSeq 0xFFE 3 = [2, 3, 0] ∧
    (run 0xF033 ((regs [0xEA]).setIdx 0xFFE)).readByte 0 = 0xF0 := by decide
/-- V-M-17 and V-M-18. -/
theorem test_stm :
    (run 0xFF55 ((regs [1, 2, 3, 4, 5, 6, 7, 8, 9, 10, 11, 12, 13, 14, 15, 16]).setIdx 0x400)).readSeq 0x400 16 =
      [1, 2, 3, 4, 5, 6, 7, 8, 9, 10, 11, 12, 13, 14, 15, 0] := by decide
theorem test_stm_at_top :
    (run 0xF055 ((regs [1, 2, 3, 4, 5, 6, 7, 8, 9, 10, 11, 12, 13, 14, 15, 16]).setIdx 0xFF8)).readSeq 0xFF7 10 =
      [0, 1, 2, 3, 4, 5, 6, 7, 8, 0] := by decide
/-- V-M-21 and V-M-22. -/
theorem test_ldm : (run 0xFF65 State.reset).regs.toList =
    [0xF0, 0x90, 0x90, 0x90, 0xF0, 0x20, 0x60, 0x20, 0x20, 0x70, 0xF0, 0x10, 0xF0, 0x80, 0xF0, 0xF0] := by decide
theorem test_ldm_at_top :
    (run 0xF265 (((regs [0x11, 0x11, 0x11, 0x77]).writeSeq 0xFFE [0xAA, 0xBB]).setIdx 0xFFE)).firstRegs 4 =
      [0xAA, 0xBB, 0, 0x77] := by decide

/-! ## Display (section 2.6) -/

/-- V-CLS-1. -/
theorem test_cls : (run 0x00E0 ((State.reset.setDisplay (Display.blank.toggle 3 5)).setReg 15 1)).fb = Display.blank ∧
    (run 0x00E0 ((State.reset.setDisplay (Display.blank.toggle 3 5)).setReg 15 1)).reg 15 = 1 := by decide
/-- V-DRW-8: a cell goes from on to off. -/
theorem test_drw_collides :
    let s := (State.reset.writeByte 0x300 0xC0).setIdx 0x300
    run 0xD011 (s.setDisplay (Display.blank.toggle 0 1)) =
      (((s.setDisplay (Display.blank.toggle 0 0)).setReg 15 1).withFetchWord 16 0xD011).advancePc := by decide
/-- The example of R142: clipped at the right and bottom edges, nothing wraps. -/
theorem test_drw_clips :
    let s := (((State.reset.setReg 10 62).setReg 11 30).writeSeq 0x20C [0xF0, 0x90, 0xF0]).setIdx 0x20C
    (run 0xDAB3 s).fb = ((Display.blank.toggle 30 62).toggle 30 63).toggle 31 62 ∧ (run 0xDAB3 s).reg 15 = 0 := by decide

/-! ## Timers, keys, reset and load (sections 2.7 and 2.8) -/

/-- V-T-3, V-T-1 and V-T-2. -/
theorem test_lddt : (run 0xF207 (State.reset.setDt 0x1E)).reg 2 = 0x1E ∧ (run 0xF207 (State.reset.setDt 0x1E)).dt = 0x1E := by
  decide
theorem test_stdt : (run 0xF015 (regs [0x3C])).dt = 0x3C ∧ (run 0xF015 (regs [0x3C])).st = 0 := by decide
theorem test_stst : (run 0xF018 (regs [3])).st = 3 ∧ (run 0xF018 (regs [3])).dt = 0 := by decide
/-- V-K-1: the keys of its own step are not looked at. -/
theorem test_ldk : (run 0xF10A ((State.reset.latchKeys (keysDown [7])).jump 0x204)).wait = .awaitingKey 1 ∧
    (run 0xF10A ((State.reset.latchKeys (keysDown [7])).jump 0x204)).pc = 0x206 ∧
    (run 0xF10A ((State.reset.latchKeys (keysDown [7])).jump 0x204)).reg 1 = 0 := by decide
/-- V-K-3: the lowest of two keys; nothing is fetched. -/
theorem test_await_lowest :
    let s := (State.reset.setWait (.awaitingKey 1)).latchKeys (keysDown [9, 7])
    after (step s) = (s.setReg 1 7).setWait .running := by decide
/-- V-T-7 and V-T-4: a tick, also during a wait, and no wrap below 0. -/
theorem test_tick :
    let s := { ((State.reset.setDt 0xFF).setSt 1).setWait (.awaitingKey 1) with host := [.tickTimers] }
    (after (step s)).dt = 0xFE ∧ (after (step s)).st = 0 ∧ (after (step s)).soundOut = some true ∧
    (after (step s)).wait = .awaitingKey 1 := by decide
theorem test_tick_floor :
    let s := { State.reset with host := [.tickTimers] }
    (after (step s)).dt = 0 ∧ (after (step s)).st = 0 ∧ (after (step s)).soundOut = some false := by decide
/-- V-R-5: `load` changes memory and `pc` only. -/
theorem test_load :
    let s := ((((State.reset.setReg 3 0x55).setIdx 0x123).setWait (.awaitingKey 4)).writeByte 0x202 0x77).jump 0x345
    after (step { s with host := [.load [1, 2]] }) = (s.writeSeq 0x200 [1, 2]).jump 0x200 := by decide
/-- V-R-1. -/
theorem test_reset :
    let s := ((fullStack.setReg 3 0x55).writeByte 0 0x77).setWait (.awaitingKey 4)
    after (step { s with host := [.reset] }) = State.reset := by decide
/-- R21: the reset contents of the font table's first and last bytes and of the byte after it. -/
theorem test_reset_font : State.reset.readByte 0 = 0xF0 ∧ State.reset.readByte 79 = 0x80 ∧ State.reset.readByte 80 = 0 := by
  decide

/-! ## Witnesses: each statement with hypotheses, met by a concrete state -/

theorem witness_RecognisedWordIsItsInstructionsEncoding : decode 0x6A3E = .ok (.ld 10 0x3E) := by decide

theorem witness_OpcodeRowsAreMutuallyExclusive : Mnemonic.LD.selects 0x6A3E = true ∧ Mnemonic.LD.selects 0x6A3E = true := by
  decide

theorem witness_StepRunsTheDecodedInstruction :
    let s := State.reset.withFetchWord 16 0x6A3E
    s.nextOp = (.step s.keys, s) ∧ s.wait = .running ∧
    decodeBytes (s.readByte s.pc.toNat) (s.readByte (s.pc.toNat + 1)) = .ok (.ld 10 0x3E) := by decide

theorem witness_UnrecognisedWordOnlyAdvancesPc :
    State.reset.nextOp = (.step State.reset.keys, State.reset) ∧ State.reset.wait = .running ∧
    decodeBytes (State.reset.readByte State.reset.pc.toNat) (State.reset.readByte (State.reset.pc.toNat + 1)) =
      .error .class0 := by decide

theorem witness_FetchReadsTwoBytesAndAdvances :
    4096 ≤ (State.reset.jump 0x1000).pc.toNat ∧ (State.reset.jump 0x0FFF).pc.toNat = 4095 := by decide

theorem witness_HostOperationsAreTakenInOrder :
    State.host { State.reset with host := [.tickTimers] } = [.tickTimers] ∧ State.reset.host = [] := by decide

/-- The rows of the transition table: a step into the wait, a step that stays `Running`. -/
theorem witness_WaitState_running :
    (let s := State.reset.withFetchWord 16 0xF10A
     (∃ t, step s = .next t) ∧ s.nextOp = (.step s.keys, s) ∧ s.wait = .running ∧ decode s.fetchWord = .ok (.ldk 1)) ∧
    (let s := State.reset.withFetchWord 16 0x6A3E
     (∃ t, step s = .next t) ∧ s.nextOp = (.step s.keys, s) ∧ s.wait = .running ∧
       ∀ x, decode s.fetchWord ≠ .ok (.ldk x)) :=
  ⟨⟨⟨_, rfl⟩, by decide⟩, ⟨_, rfl⟩, by decide⟩

/-- The rows of the transition table: a waiting step with the last key down, and with none. -/
theorem witness_WaitState_waiting :
    (let s := { (State.reset.setWait (.awaitingKey 15)) with host := [.step (keysDown [15])] }
     (∃ t, step s = .next t) ∧ s.nextOp = (.step (keysDown [15]), { s with host := [] }) ∧ s.wait = .awaitingKey 15 ∧
       ∃ k : Fin 16, (keysDown [15])[k] = true) ∧
    (let s := State.reset.setWait (.awaitingKey 0)
     (∃ t, step s = .next t) ∧ s.nextOp = (.step (keysDown []), s) ∧ s.wait = .awaitingKey 0 ∧
       ∀ k : Fin 16, (keysDown [])[k] = false) :=
  ⟨⟨⟨_, rfl⟩, by decide⟩, ⟨_, rfl⟩, by decide⟩

/-- The rows of the transition table for the other three operations. -/
theorem witness_WaitState_operations :
    (∃ t, step { State.reset with host := [.tickTimers] } = .next t) ∧
    State.nextOp { State.reset with host := [.tickTimers] } = (.tickTimers, State.reset) ∧
    (∃ t, step { State.reset with host := [.load [1]] } = .next t) ∧
    State.nextOp { State.reset with host := [.load [1]] } = (.load [1], State.reset) ∧
    (∃ t, step { State.reset with host := [.reset] } = .next t) ∧
    State.nextOp { State.reset with host := [.reset] } = (.reset, State.reset) :=
  ⟨⟨_, rfl⟩, by decide, ⟨_, rfl⟩, by decide, ⟨_, rfl⟩, by decide⟩

theorem witness_WaitingStepTakesTheLowestKey :
    let s := (State.reset.setWait (.awaitingKey 1)).latchKeys (keysDown [7, 9])
    s.nextOp = (.step (keysDown [7, 9]), s) ∧ s.wait = .awaitingKey 1 ∧ (keysDown [7, 9])[(7 : Fin 16)] = true ∧
    ∀ j : Fin 16, j < 7 → (keysDown [7, 9])[j] = false := by decide

theorem witness_WaitingStepWithoutKeyChangesNothing :
    let s := State.reset.setWait (.awaitingKey 1)
    s.nextOp = (.step s.keys, s) ∧ s.wait = .awaitingKey 1 ∧ ∀ k : Fin 16, s.keys[k] = false := by decide

theorem witness_JumpToItselfChangesNothing :
    let s := State.reset.withFetchWord 16 0x1200
    s.host = [] ∧ s.wait = .running ∧ s.pc.toNat = (0x200 : Addr12).toNat ∧
    decodeBytes (s.readByte s.pc.toNat) (s.readByte (s.pc.toNat + 1)) = .ok (.jp 0x200) := by decide

theorem witness_StepOutsideMemoryOnlyAdvancesPc :
    (State.reset.jump 0x1000).host = [] ∧ (State.reset.jump 0x1000).wait = .running ∧
    4096 ≤ (State.reset.jump 0x1000).pc.toNat := by decide

/-- For the invariant and for the constancy of the parameters: a canonical state and its next state. -/
theorem witness_StepKeepsMemoryCanonical :
    (State.reset.withFetchWord 16 0xF055).Inv ∧ ∃ t, step (State.reset.withFetchWord 16 0xF055) = .next t :=
  ⟨by decide, _, rfl⟩

theorem witness_ParametersNeverChange : ∃ t, step (State.reset.withFetchWord 16 0x8126) = .next t := ⟨_, rfl⟩

/-- Two canonical memories that read alike: one as it is, one after a write of the value its address reads as. -/
theorem witness_CanonicalMemoryIsDeterminedByItsBytes :
    let m : Memory := [(0x300, 7)]
    let m' : Memory := Memory.write Config.defaultFont m 0x400 0
    Memory.wf Config.defaultFont m ∧ Memory.wf Config.defaultFont m' ∧
    ∀ a, Memory.read Config.defaultFont m a = Memory.read Config.defaultFont m' a := by
  refine ⟨by decide, by decide, fun a => ?_⟩
  rw [show Memory.write Config.defaultFont [(0x300, 7)] 0x400 0 = [(0x300, 7)] by decide]

/-- For each clause of the write rules, an instruction and a state in which the part changes. -/
theorem witness_OnlyTheNamedInstructionsWrite :
    (after (exec .cls (State.reset.setDisplay (Display.blank.toggle 0 0)))).fb ≠ Display.blank.toggle 0 0 ∧
    (after (exec (.bcd 0) ((regs [1]).setIdx 0x300))).readByte 0x302 ≠ ((regs [1]).setIdx 0x300).readByte 0x302 := by
  decide

theorem witness_OnlyTheNamedInstructionsWrite_registers :
    (after (exec (.ldi 1) State.reset)).idx ≠ State.reset.idx ∧
    (after (exec (.stdt 0) (regs [1]))).dt ≠ (regs [1]).dt ∧ (after (exec (.stst 0) (regs [1]))).st ≠ (regs [1]).st ∧
    (after (exec (.call 0) State.reset)).sp ≠ State.reset.sp ∧
    (after (exec (.ldk 1) State.reset)).wait ≠ State.reset.wait ∧
    (after (exec (.jp 0) State.reset)).pc ≠ State.reset.pc := by decide

/-- A flag instruction, one that is none, and the completion that the hypotheses name. -/
theorem witness_FlagIsWrittenByItsSixInstructionsOnly :
    (∃ t, exec (.addc 0 1) State.reset = .next t) ∧ (Instr.addc 0 1).writesFlag = true ∧
    (∃ t, exec (.mov 0 1) State.reset = .next t) ∧ (Instr.mov 0 1).writesFlag = false ∧
    15 ∉ (Instr.mov 0 1).destinations ∧ (14 : Reg) ≠ 15 ∧ 14 ∉ (Instr.ldm 13).destinations :=
  ⟨⟨_, rfl⟩, rfl, ⟨_, rfl⟩, rfl, by decide⟩

theorem witness_NoInstructionReadsTheSoundTimer :
    (∃ t, exec (.lddt 0) State.reset = .next t) ∧ (Instr.lddt 0).mnemonic ≠ .STST ∧
    (∃ t, exec (.stst 0) State.reset = .next t) ∧ (Instr.stst 0).mnemonic = .STST :=
  ⟨⟨_, rfl⟩, by decide, ⟨_, rfl⟩, rfl⟩

theorem witness_OnlyKeySkipsReadTheKeys :
    (∃ t, exec (.ldk 0) State.reset = .next t) ∧ (Instr.ldk 0).mnemonic ≠ .SKP ∧ (Instr.ldk 0).mnemonic ≠ .SKNP :=
  ⟨⟨_, rfl⟩, by decide⟩

/-- The clauses of `load`: the last byte that fits, and addresses on both sides of a one-byte image. -/
theorem witness_LoadCopiesTheImageAndSetsPc :
    (3583 < (List.replicate 3584 (0xAA : Byte)).length ∧ 0x200 + 3583 < 4096) ∧
    ((0x1FF < 0x200 ∨ 0x200 + 1 ≤ 0x1FF) ∧ (0x201 < 0x200 ∨ 0x200 + 1 ≤ 0x201)) := by
  rw [List.length_replicate]
  decide

/-- The clauses of the memory primitives at the edge of memory. -/
theorem witness_ReadsAndWritesAreBoundsChecked : 4096 ≤ 4096 ∧ 4095 < 4096 ∧ 4094 ≠ 4095 := by decide

/-- The clauses of `WriteSeq` for two bytes at the last address. -/
theorem witness_WriteSequenceChecksEachByte :
    (0 < [(1 : Byte), 2].length ∧ 4095 + 0 < 4096) ∧ 4094 < 4095 ∧ 4095 + [(1 : Byte), 2].length ≤ 4097 ∧ 4096 ≤ 4096 := by
  decide

/-- The clauses of the stack: empty, one entry, fifteen entries, full. -/
theorem witness_PushAndPopKeepTheStackDiscipline :
    State.reset.sp.val = 0 ∧ oneCall.sp.val = (0 : Fin 16).val + 1 ∧ oneCall.sp.val < 16 ∧
    fullStack.sp.val = (15 : Fin 16).val + 1 ∧ fullStack.sp.val = 16 ∧ fullStack.pop.2.sp.val < 16 := by decide

theorem witness_StackReturnsPushedValuesInReverse :
    State.reset.sp.val + (List.replicate 16 (0x206 : Word)).length ≤ 16 := by decide

/-- For `RET` and `CALL`: the stack empty, with entries, and full. -/
theorem witness_ReturnPopsIntoPc_CallPushesPcAndJumps :
    fullStack.sp.val = (15 : Fin 16).val + 1 ∧ State.reset.sp.val = 0 ∧ State.reset.sp.val = (0 : Fin 16).val ∧
    fullStack.pop.2.sp.val = (15 : Fin 16).val ∧ State.reset.sp.val ≠ (1 : Fin 16).val ∧ fullStack.sp.val = 16 := by decide

/-- For the key skips: the last key, and the first code that names none. -/
theorem witness_KeySkipsTestTheKeyLevel :
    ((regs [15]).reg 0).toNat = (15 : Fin 16).val ∧ 16 ≤ ((regs [16]).reg 0).toNat := by decide

/-- For the shifts: both values of the parameter, and a destination that is not the flag. -/
theorem witness_ShiftsWriteResultAndBitShiftedOut :
    let s := { regs [0, 0xFF, 4] with cfg := { Config.default with shiftSrc := .y } }
    (0xFF : Byte) = (if (regs [0, 0xFF, 4]).cfg.shiftSrc = .x then (regs [0, 0xFF, 4]).reg 1 else (regs [0, 0xFF, 4]).reg 2) ∧
    (4 : Byte) = (if s.cfg.shiftSrc = .x then s.reg 1 else s.reg 2) ∧ (1 : Reg) ≠ 15 := by decide

/-- For `ADDC`, `SUB`, `SUBN`: a destination that is not the flag, and for `RND` a bit outside the immediate. -/
theorem witness_flag_results_and_mask : (14 : Reg) ≠ 15 ∧ (0x0F : Byte).getLsbD 4 = false := by decide

/-- For `BCD`: all three bytes inside memory at the highest `I`, and addresses just outside them. -/
theorem witness_BcdStoresTheThreeDigits :
    let s := State.reset.setIdx 0xFFD
    s.base < 4096 ∧ s.base + 1 < 4096 ∧ s.base + 2 < 4096 ∧ 0xFFC < s.base ∧ s.base + 3 ≤ 0x1000 := by decide

/-- For `STM`: the last stored register inside memory at the highest `I`, and addresses just outside. -/
theorem witness_BulkStoreWritesFifteenRegisters :
    let s := State.reset.setIdx 0xFF1
    (14 : Reg).val < 15 ∧ s.base + (14 : Reg).val < 4096 ∧ 0xFF0 < s.base ∧ s.base + 15 ≤ 0x1000 := by decide

/-- For `LDM`: the register X itself and the one above it. -/
theorem witness_BulkLoadReadsUpToRegisterX : (14 : Reg).val ≤ (14 : Reg).val ∧ (14 : Reg).val < (15 : Reg).val := by decide

theorem witness_StoreThenLoadRestoresAllButTheFlag : (State.reset.setIdx 0xFF0).base + 15 < 4096 ∧ (14 : Reg) ≠ 15 := by
  decide

theorem witness_StoredInstructionIsFetchedNext :
    let s := (State.reset.setIdx 0xFFE).jump 0xFFE
    s.idx = s.pc ∧ s.pc.toNat + 1 < 4096 := by decide

/-- For `DRW`: an anchor, a covered cell in the last column and row (on and off), and a cell that is not covered. -/
theorem witness_DrawTogglesTheCoveredCells :
    let s := (((regs [0xFF, 0xFF]).writeByte 0x300 0xC0).setIdx 0x300).setDisplay (Display.blank.toggle 31 63)
    63 = (s.reg 0).toNat % 64 ∧ 31 = (s.reg 1).toNat % 32 ∧ 31 < 32 ∧ 63 < 64 ∧
    (31 ≤ 31 ∧ 31 < 31 + 1 ∧ 63 ≤ 63 ∧ 63 < 63 + 8 ∧ (s.readByte (s.base + (31 - 31))).getLsbD (7 - (63 - 63)) = true) ∧
    s.fb.cell 31 63 = true ∧ ¬(31 ≤ 30 ∧ 30 < 31 + 1) := by decide

/-- For `DRW` without a collision: on a blank display no covered cell is on. -/
theorem witness_DrawTogglesTheCoveredCells_blank : ∀ cy cx : Nat, Display.blank.cell cy cx = false := by
  intro cy cx
  simp [Display.cell, Display.blank]

theorem witness_DrawingTwiceRestoresTheDisplay : (0 : Reg) ≠ 15 ∧ (1 : Reg) ≠ 15 := by decide

theorem witness_ResetStateIsCanonical : State.reset.mem = [] := by decide

end Sys2Proof.Tests
end

section
/-! PROOFS. The statements of 00_scope.md: the parameters of R3 are constants, and the host's operations are taken in
order (R9, R164). -/

namespace Sys2Proof.Machine

/-! ## What keeps the parameters -/

@[simp] theorem State.nextOp_cfg (s : State) : s.nextOp.2.cfg = s.cfg := by rw [s.nextOp_state]

@[simp] theorem State.resetOp_cfg (s : State) : s.resetOp.cfg = s.cfg := rfl

@[simp] theorem State.load_cfg (s : State) (rom : List Byte) : (s.load rom).cfg = s.cfg := by simp [State.load]

@[simp] theorem State.tickOp_cfg (s : State) : s.tickOp.cfg = s.cfg := rfl

@[simp] theorem State.awaitStep_cfg (s : State) (r : Reg) : (s.awaitStep r).cfg = s.cfg := by
  obtain ⟨-, h⟩ | ⟨k, -, -, h⟩ := s.awaitStep_cases r <;> simp [h]

/-- Every instruction's next state is built from `s` by the named operations of Ops.lean, and each of those keeps the
parameters. -/
theorem exec_cfg {i : Instr} {s t : State} (h : exec i s = .next t) : t.cfg = s.cfg := by
  cases i
  all_goals
    obtain rfl := Host.Outcome.next.inj h
    simp

/-- A recognised word runs its instruction, an unrecognised one changes nothing (R70, R83). -/
theorem execute_cfg {op : Word} {s t : State} (h : execute op s = .next t) : t.cfg = s.cfg := by
  cases hd : decode op with
  | ok i =>
    rw [execute_ok hd] at h
    exact exec_cfg h
  | error r =>
    rw [execute_error hd] at h
    cases h
    rfl

theorem stepOp_cfg {keys : KeyVector} {s t : State} (h : stepOp keys s = .next t) : t.cfg = s.cfg := by
  cases hw : s.wait with
  | running =>
    rw [stepOp_execute keys hw] at h
    rw [execute_cfg h]
  | awaitingKey r =>
    rw [stepOp_waiting keys hw] at h
    cases h
    simp

theorem applyOp_cfg {op : HostOp} {s t : State} (h : applyOp op s = .next t) : t.cfg = s.cfg := by
  cases op with
  | reset => cases h; simp
  | load rom => cases h; simp
  | tickTimers => cases h; simp
  | step keys => exact stepOp_cfg h

/-! ## The obligations -/

/-- Settles O23: taking an operation from the queue keeps the parameters, and so does each of the four operations. -/
theorem parametersNeverChange : Obligations.ParametersNeverChange := by
  intro s t h
  calc t.cfg = s.nextOp.2.cfg := applyOp_cfg h
    _ = s.cfg := s.nextOp_cfg

/-- Settles O14, by the two cases of the queue. -/
theorem hostOperationsAreTakenInOrder : Obligations.HostOperationsAreTakenInOrder := fun _ =>
  ⟨fun _ _ h => step_of_nextOp (State.nextOp_of_cons h), fun h => step_of_nextOp (State.nextOp_of_nil h)⟩

end Sys2Proof.Machine
end
section
/-! PROOFS. The statements of 10_state.md about memory in its canonical form (R20, R21, R41; log entry 24). -/

namespace Sys2Proof.Machine

/-! ## Every operation keeps the canonical form -/

/-- Only `BCD` and `STM` write memory, each one row of bytes from `I` up (R134, R135). -/
theorem exec_mem_cases {i : Instr} {s t : State} (h : exec i s = .next t) :
    t.mem = s.mem ∨ i.mnemonic ∈ [.BCD, .STM] ∧ ∃ bytes, t = s.writeSeq s.base bytes := by
  cases i
  case bcd | stm =>
    obtain rfl := Host.Outcome.next.inj h
    exact .inr ⟨by simp [Instr.mnemonic], _, rfl⟩
  all_goals
    obtain rfl := Host.Outcome.next.inj h
    exact .inl (by simp)

theorem State.Inv.congr {s t : State} (hm : t.mem = s.mem) (hc : t.cfg = s.cfg) (hs : s.Inv) : t.Inv := by
  rwa [State.Inv, hm, hc]

theorem State.Inv.writeSeq {s : State} (hs : s.Inv) (start : Nat) (bytes : List Byte) :
    (s.writeSeq start bytes).Inv := by
  rw [State.Inv, State.writeSeq_cfg]
  exact State.wf_writeSeq start bytes hs

theorem State.Inv.resetOp (s : State) : s.resetOp.Inv := Memory.wf_nil s.cfg.font

theorem State.Inv.load {s : State} (hs : s.Inv) (rom : List Byte) : (s.load rom).Inv := hs.writeSeq loadOffset rom

theorem State.Inv.awaitStep {s : State} (hs : s.Inv) (r : Reg) : (s.awaitStep r).Inv := by
  obtain ⟨-, h⟩ | ⟨k, -, -, h⟩ := s.awaitStep_cases r
  · rwa [h]
  · exact hs.congr (by simp [h]) (by simp)

theorem exec_inv {i : Instr} {s t : State} (hs : s.Inv) (h : exec i s = .next t) : t.Inv := by
  obtain hm | ⟨-, bytes, rfl⟩ := exec_mem_cases h
  · exact hs.congr hm (exec_cfg h)
  · exact hs.writeSeq s.base bytes

theorem execute_inv {op : Word} {s t : State} (hs : s.Inv) (h : execute op s = .next t) : t.Inv := by
  cases hd : decode op with
  | ok i =>
    rw [execute_ok hd] at h
    exact exec_inv hs h
  | error r =>
    rw [execute_error hd] at h
    cases h
    exact hs

theorem stepOp_inv {keys : KeyVector} {s t : State} (hs : s.Inv) (h : stepOp keys s = .next t) : t.Inv := by
  cases hw : s.wait with
  | running =>
    rw [stepOp_execute keys hw] at h
    exact execute_inv (s := { s with keys := keys, pc := s.pc + 2 }) hs h
  | awaitingKey r =>
    rw [stepOp_waiting keys hw] at h
    cases h
    exact State.Inv.awaitStep (s := s.latchKeys keys) hs r

theorem applyOp_inv {op : HostOp} {s t : State} (hs : s.Inv) (h : applyOp op s = .next t) : t.Inv := by
  cases op with
  | reset => cases h; exact .resetOp s
  | load rom => cases h; exact hs.load rom
  | tickTimers => cases h; exact hs
  | step keys => exact stepOp_inv hs h

/-- Settles O20: taking an operation from the queue touches neither memory nor the font, and each of the four
operations keeps the canonical form. -/
theorem stepKeepsMemoryCanonical : Obligations.StepKeepsMemoryCanonical := by
  intro s t hs h
  exact applyOp_inv (hs.congr (by rw [s.nextOp_state]) s.nextOp_cfg) h

/-- Settles O21: after reset memory lists nothing. -/
theorem resetStateIsCanonical : Obligations.ResetStateIsCanonical := Memory.wf_nil Config.default.font

/-! ## A canonical memory is the list of the bytes that differ from the reset contents -/

theorem Memory.lookup_of_mem {m : Memory} (h : m.Pairwise (fun c d => c.1 < d.1)) {c : Host.Cell} (hc : c ∈ m) :
    Memory.lookup m c.1 = some c.2 := by
  induction m with
  | nil => nomatch hc
  | cons d m ih =>
    rw [List.pairwise_cons] at h
    rcases List.mem_cons.mp hc with rfl | hc
    · simp [Memory.lookup]
    · simp [Memory.lookup, (h.1 c hc).ne, ih h.2 hc]

theorem Memory.mem_of_lookup {m : Memory} {a : Nat} {v : Byte} (h : Memory.lookup m a = some v) : (a, v) ∈ m := by
  induction m with
  | nil => nomatch h
  | cons d m ih =>
    by_cases hd : d.1 = a
    · simp only [Memory.lookup, hd, if_true, Option.some.injEq] at h
      simp [← hd, ← h]
    · simp only [Memory.lookup, hd, if_false] at h
      exact List.mem_cons_of_mem d (ih h)

/-- In a canonical memory a cell is listed exactly when it holds the byte read there and that byte is not the reset
contents. -/
theorem Memory.mem_iff_read {font : Font} {m : Memory} (h : Memory.wf font m) {c : Host.Cell} :
    c ∈ m ↔ c.1 < memSize ∧ c.2 = Memory.read font m c.1 ∧ c.2 ≠ Memory.unlisted font c.1 := by
  constructor
  · intro hc
    obtain ⟨hlt, hne⟩ := h.2 c hc
    exact ⟨hlt, by simp [Memory.read, hlt, Memory.lookup_of_mem h.1 hc], hne⟩
  · rintro ⟨hlt, hread, hne⟩
    rw [Memory.read, if_pos hlt] at hread
    cases hl : Memory.lookup m c.1 with
    | none => exact absurd (by simpa [hl] using hread) hne
    | some v =>
      obtain rfl : c.2 = v := by simpa [hl] using hread
      exact Memory.mem_of_lookup hl

/-- Settles O22: memories that read alike list the same cells, and a list in strictly rising order is determined by
its elements. -/
theorem canonicalMemoryIsDeterminedByItsBytes : Obligations.CanonicalMemoryIsDeterminedByItsBytes := by
  intro font m m' hm hm' hread
  have : Std.Irrefl fun c d : Host.Cell => c.1 < d.1 := ⟨fun c => Nat.lt_irrefl c.1⟩
  have : Std.Antisymm fun c d : Host.Cell => c.1 < d.1 := ⟨fun c d h h' => absurd h' h.asymm⟩
  refine hm.1.eq_of_mem_iff hm'.1 fun c => ?_
  rw [Memory.mem_iff_read hm, Memory.mem_iff_read hm', hread]

end Sys2Proof.Machine
end

section
/-! PROOFS. The statements of 10_state.md about the stack (R17, R18), the state after reset (R25) and `pc` outside
memory (R13). -/

namespace Sys2Proof.Machine

/-! ## The stack, entry by entry -/

theorem State.push_of_lt {s : State} (h : s.sp.val < 16) (v : Word) :
    s.push v = { s with stk := s.stk.set s.sp.val v, sp := ⟨s.sp.val + 1, by omega⟩ } := dif_pos h

theorem State.push_of_full {s : State} (h : s.sp.val = 16) (v : Word) : s.push v = s := dif_neg (by omega)

theorem State.pop_of_top {s : State} (k : Fin 16) (h : s.sp.val = k.val + 1) :
    s.pop = (s.stk[k], { s with sp := k.castSucc }) := by
  have hk : s.sp.val - 1 = k.val := by omega
  rw [State.pop, dif_pos (by omega)]
  simp [hk, Fin.castSucc, Fin.castAdd, Fin.castLE]

theorem State.pop_of_empty {s : State} (h : s.sp.val = 0) : s.pop = (0, s) := dif_neg (by omega)

theorem State.frame_push (s : State) (v : Word) : Frame { stack := true } s (s.push v) := by
  constructor <;> simp [State.reg, State.readByte]

theorem State.frame_pop (s : State) : Frame { stack := true } s s.pop.2 := by
  constructor <;> simp [State.reg, State.readByte]

theorem State.frame_jump (s : State) (v : Word) : Frame { pc := true } s (s.jump v) := by
  constructor <;> simp [State.reg, State.readByte]

/-- Settles O36: below capacity a push puts its value on top, which is what a pop takes; a full stack drops the push, an
empty one pops 0. -/
theorem pushAndPopKeepTheStackDiscipline : Obligations.PushAndPopKeepTheStackDiscipline := by
  intro s v
  refine ⟨fun hlt => ?_, fun hfull => State.push_of_full hfull v, fun k hk => ?_, fun h0 => ?_, s.pop_stk,
    s.frame_push v, s.frame_pop⟩
  · have hp := State.push_of_lt hlt v
    have hpop := State.pop_of_top (s := s.push v) ⟨s.sp.val, hlt⟩ (by rw [hp])
    rw [hpop]
    refine ⟨by rw [hp], by simp [hp], rfl, fun k hk => ?_⟩
    simp [hp, hk.symm]
  · rw [State.pop_of_top k hk]
    exact ⟨rfl, rfl⟩
  · rw [State.pop_of_empty h0]
    exact ⟨rfl, rfl⟩

theorem State.popN_succ_last (s : State) (n : Nat) :
    s.popN (n + 1) = ((s.popN n).1 ++ [(s.popN n).2.pop.1], (s.popN n).2.pop.2) := by
  induction n generalizing s with
  | zero => rfl
  | succ n ih =>
    rw [State.popN, ih s.pop.2]
    rfl

/-- Pushes leave the entries below the stack pointer. -/
theorem State.foldl_push_stk (s : State) (vs : List Word) (k : Fin 16) (hk : k.val < s.sp.val) :
    (vs.foldl State.push s).stk[k] = s.stk[k] := by
  induction vs generalizing s with
  | nil => rfl
  | cons v vs ih =>
    obtain ⟨hlt, hp⟩ | ⟨-, hp⟩ := s.push_cases v
    · rw [List.foldl_cons, ih (s.push v) (by simp [hp]; omega)]
      simp [hp, Nat.ne_of_gt hk]
    · rw [List.foldl_cons, hp, ih s hk]

@[simp] theorem State.popN_stk (s : State) (n : Nat) : (s.popN n).2.stk = s.stk := by
  induction n generalizing s with
  | zero => rfl
  | succ n ih => rw [State.popN, ih, State.pop_stk]

/-- Settles O37, by induction on the values: the pops for the later values come first, and leave the first value on
top. -/
theorem stackReturnsPushedValuesInReverse : Obligations.StackReturnsPushedValuesInReverse := by
  intro s vs h
  induction vs generalizing s with
  | nil => exact ⟨rfl, rfl⟩
  | cons v vs ih =>
    rw [List.length_cons] at h
    have hp := State.push_of_lt (s := s) (by omega) v
    have hsp : (s.push v).sp.val = s.sp.val + 1 := by rw [hp]
    obtain ⟨hvals, hlater⟩ := ih (s.push v) (by omega)
    have hfirst : (vs.foldl State.push (s.push v)).stk[s.sp.val] = v := by
      have hkept := State.foldl_push_stk (s.push v) vs ⟨s.sp.val, by omega⟩ (by simp [hsp])
      simpa [hp] using hkept
    have hpop := State.pop_of_top (s := ((vs.foldl State.push (s.push v)).popN vs.length).2) ⟨s.sp.val, by omega⟩
      (by rw [hlater, hsp])
    rw [List.foldl_cons, List.length_cons, State.popN_succ_last, hvals, hpop, List.reverse_cons]
    exact ⟨by simp [hfirst], rfl⟩

/-! ## The state after reset (R25, R180) -/

theorem Memory.read_nil (font : Font) (a : Nat) : Memory.read font [] a = Memory.unlisted font a := by
  by_cases ha : a < memSize
  · simp [Memory.read, Memory.lookup, ha]
  · have h80 : ¬a < 80 := by unfold memSize at ha; omega
    simp [Memory.read, Memory.unlisted, ha, h80]

/-- `reset` constructs the core, from any state. -/
theorem State.resetOp_constructed (s : State) : s.resetOp.Constructed where
  regs r := by simp [State.reg, State.resetOp, State.reset]
  pc := rfl
  idx := rfl
  dt := rfl
  st := rfl
  sp := rfl
  stk k := by simp [State.resetOp, State.reset]
  wait := rfl
  font a h := (Memory.read_nil s.cfg.font a).trans (dif_pos h)
  zero a h := (Memory.read_nil s.cfg.font a).trans (dif_neg (Nat.not_lt.mpr h))
  fb := Display.cell_blank

/-- Settles O28: the state after reset is what `reset` makes of it. -/
theorem resetStateHasTheSpecsValues : Obligations.ResetStateHasTheSpecsValues := State.reset.resetOp_constructed

/-! ## `pc` outside memory (R13) -/

theorem State.fetchWord_outside {s : State} (h : memSize ≤ s.pc.toNat) : s.fetchWord = 0 := by
  simp [State.fetchWord, State.readByte, Memory.read_outside s.cfg.font s.mem h,
    Memory.read_outside s.cfg.font s.mem (Nat.le_add_right_of_le h), wordOfBytes]

/-- Settles O19: the word outside memory is 0x0000, which no row of the opcode map matches (R40, R70). -/
theorem stepOutsideMemoryOnlyAdvancesPc : Obligations.StepOutsideMemoryOnlyAdvancesPc := by
  intro s hhost hw hpc
  have hd : decode s.fetchWord = .error .class0 := by
    rw [State.fetchWord_outside hpc]
    decide
  have hstep : step s = .next (s.jump (s.pc + 2)) :=
    (step_of_nextOp (State.nextOp_of_nil hhost)).trans (stepOp_unrecognised s.keys hw hd)
  exact ⟨s.jump (s.pc + 2), hstep, BitVec.toNat_add s.pc 2, s.frame_jump _⟩

end Sys2Proof.Machine
end

section
/-! PROOFS. The statements of 10_state.md about what an instruction writes: the table of its writes, as one frame for
each instruction, and the flag. -/

namespace Sys2Proof

/-- The parts of the state that an instruction may write: its destinations, register 15 where it sets the flag, and
what 41_control_flow.md to 45_timer_key.md give it (R12 to R22). -/
def Instr.writes : Instr → Machine.Writes
  | .cls => { fb := true }
  | .jp _ | .jp0 _ | .se _ _ | .sne _ _ | .ser _ _ | .sner _ _ | .skp _ | .sknp _ => { pc := true }
  | .call _ | .ret => { pc := true, stack := true }
  | .ld x _ | .add x _ | .mov x _ | .or x _ | .and x _ | .xor x _ | .lddt x => { regs := [x] }
  | .addc x _ | .sub x _ | .shr x _ | .subn x _ | .shl x _ => { regs := [x, 15] }
  | .rnd x _ => { regs := [x], draws := true }
  | .drw _ _ _ => { regs := [15], fb := true }
  | .ldi _ | .addi _ | .font _ => { idx := true }
  | .bcd _ | .stm _ => { mem := true }
  | .ldm x => { regs := (Instr.ldm x).destinations }
  | .ldk _ => { wait := true }
  | .stdt _ => { dt := true }
  | .stst _ => { st := true }

end Sys2Proof

namespace Sys2Proof.Machine

/-! ## Every instruction keeps to the table -/

/-- No register changes but those in the table. -/
theorem exec_reg {i : Instr} {s t : State} (h : exec i s = .next t) {r : Reg} (hr : r ∉ i.writes.regs) :
    t.reg r = s.reg r := by
  cases i
  all_goals obtain rfl := Host.Outcome.next.inj h
  case ld | add | mov | or | and | xor | lddt =>
    rw [State.reg_setReg, if_neg (by simpa [Instr.writes] using hr)]
  case addc | sub | shr | subn | shl =>
    simp only [Instr.writes, List.mem_cons, List.not_mem_nil, or_false, not_or] at hr
    rw [State.reg_setRegFlag, if_neg hr.2, if_neg hr.1]
  case rnd x nn =>
    rw [State.setRandom, State.reg_setReg, if_neg (by simpa [Instr.writes] using hr)]
    exact State.reg_congr s.draw_regs r
  case drw x y n =>
    rw [State.setFlag, State.reg_setReg, if_neg (by simpa [Instr.writes] using hr)]
    exact State.reg_congr (s.setDisplay_regs _) r
  case ldm x =>
    have hx : ¬r.val ≤ x.val := by simpa [Instr.writes, Instr.destinations] using hr
    rw [State.reg_setRegs, dif_neg (by simp; omega)]
  all_goals exact State.reg_congr (by simp) r

theorem exec_readByte {i : Instr} {s t : State} (h : exec i s = .next t) (hw : i.writes.mem = false) (a : Nat) :
    t.readByte a = s.readByte a := by
  obtain hm | ⟨hm, -⟩ := exec_mem_cases h
  · exact State.readByte_congr hm (exec_cfg h) a
  · cases i <;> simp [Instr.mnemonic, Instr.writes] at hm hw

/-- Every instruction changes at most the parts that the table gives it. -/
theorem exec_frame {i : Instr} {s t : State} (h : exec i s = .next t) : Frame i.writes s t := by
  have hreg : ∀ r, r ∉ i.writes.regs → t.reg r = s.reg r := fun _ => exec_reg h
  have hmem := exec_readByte h
  have hcfg := exec_cfg h
  cases i
  all_goals
    obtain rfl := Host.Outcome.next.inj h
    constructor
    case regs => exact hreg
    case mem => exact hmem
    case cfg => exact hcfg
    all_goals simp [Instr.writes]

/-! ## The table read by column -/

theorem writes_fb {i : Instr} (h : i.writes.fb = true) : i.mnemonic ∈ [.CLS, .DRW] := by
  cases i <;> simp [Instr.writes, Instr.mnemonic] at h ⊢

theorem writes_idx {i : Instr} (h : i.writes.idx = true) : i.mnemonic ∈ [.LDI, .ADDI, .FONT] := by
  cases i <;> simp [Instr.writes, Instr.mnemonic] at h ⊢

theorem writes_dt {i : Instr} (h : i.writes.dt = true) : i.mnemonic = .STDT := by
  cases i <;> simp [Instr.writes, Instr.mnemonic] at h ⊢

theorem writes_st {i : Instr} (h : i.writes.st = true) : i.mnemonic = .STST := by
  cases i <;> simp [Instr.writes, Instr.mnemonic] at h ⊢

theorem writes_stack {i : Instr} (h : i.writes.stack = true) : i.mnemonic ∈ [.CALL, .RET] := by
  cases i <;> simp [Instr.writes, Instr.mnemonic] at h ⊢

theorem writes_wait {i : Instr} (h : i.writes.wait = true) : i.mnemonic = .LDK := by
  cases i <;> simp [Instr.writes, Instr.mnemonic] at h ⊢

theorem writes_mem {i : Instr} (h : i.writes.mem = true) : i.mnemonic ∈ [.BCD, .STM] := by
  cases i <;> simp [Instr.writes, Instr.mnemonic] at h ⊢

theorem writes_pc {i : Instr} (h : i.writes.pc = true) :
    i.mnemonic ∈ [.RET, .JP, .CALL, .JP0, .SE, .SNE, .SER, .SNER, .SKP, .SKNP] := by
  cases i <;> simp [Instr.writes, Instr.mnemonic] at h ⊢

theorem mem_writes_regs {i : Instr} {r : Reg} :
    r ∈ i.writes.regs ↔ r ∈ i.destinations ∨ i.writesFlag = true ∧ r = 15 := by
  cases i <;> simp [Instr.writes, Instr.destinations, Instr.writesFlag]

/-! ## The flag (R12) -/

theorem exec_flag {i : Instr} {s t : State} (h : exec i s = .next t) (hw : i.writesFlag = true) :
    ∃ b, t.reg 15 = flagByte b := by
  cases i
  case addc | sub | shr | subn | shl =>
    obtain rfl := Host.Outcome.next.inj h
    exact ⟨_, by rw [State.reg_setRegFlag, if_pos rfl]⟩
  case drw =>
    obtain rfl := Host.Outcome.next.inj h
    exact ⟨_, by rw [State.setFlag, State.reg_setReg, if_pos rfl]⟩
  all_goals nomatch hw

/-! ## The obligations -/

/-- Settles O24: a part that changed is one the table gives the instruction. -/
theorem onlyTheNamedInstructionsWrite : Obligations.OnlyTheNamedInstructionsWrite := by
  intro i s t h
  have hf := exec_frame h
  refine ⟨fun hne => writes_fb ?_, fun ⟨a, hne⟩ => writes_mem ?_, fun hne => writes_idx ?_, fun hne => writes_dt ?_,
    fun hne => writes_st ?_, fun hne => writes_stack ?_, fun hne => writes_wait ?_, fun hne => writes_pc ?_⟩
  all_goals refine Bool.of_not_eq_false fun hw => ?_
  · exact hne (hf.fb hw)
  · exact hne (hf.mem hw a)
  · exact hne (hf.idx hw)
  · exact hne (hf.dt hw)
  · exact hne (hf.st hw)
  · exact hne.elim (· (hf.sp hw)) (· (hf.stk hw))
  · exact hne (hf.wait hw)
  · exact hne (hf.pc hw)

/-- Settles O25: the registers of the table are the destinations, and register 15 for the six flag instructions. -/
theorem flagIsWrittenByItsSixInstructionsOnly : Obligations.FlagIsWrittenByItsSixInstructionsOnly := by
  intro i s t h
  refine ⟨fun hw => ?_, fun hw hd => exec_reg h ?_, fun r hr hd => exec_reg h ?_⟩
  · obtain ⟨b, hb⟩ := exec_flag h hw
    cases b
    · exact .inl hb
    · exact .inr hb
  · simp [mem_writes_regs, hw, hd]
  · simp [mem_writes_regs, hr, hd]

end Sys2Proof.Machine
end

section
/-! PROOFS. The statements of 10_state.md about what an instruction reads: a state with another `ST` and another key
vector takes every instruction the same way (R16, R23). -/

namespace Sys2Proof.Machine

/-- The state with another `ST` and another key vector. -/
def State.withStKeys (s : State) (v : Byte) (k : KeyVector) : State := { s with st := v, keys := k }

/-! ## No shared operation reads either -/

theorem State.skipIf_withStKeys (s : State) (c : Bool) (v : Byte) (k : KeyVector) :
    (s.withStKeys v k).skipIf c = (s.skipIf c).withStKeys v k := by
  cases c <;> rfl

theorem State.push_withStKeys (s : State) (w : Word) (v : Byte) (k : KeyVector) :
    (s.withStKeys v k).push w = (s.push w).withStKeys v k := by
  by_cases h : s.sp.val < 16
  · rw [State.push_of_lt h]
    exact State.push_of_lt (s := s.withStKeys v k) h w
  · have hfull : s.sp.val = 16 := by omega
    rw [State.push_of_full hfull]
    exact State.push_of_full (s := s.withStKeys v k) hfull w

theorem State.pop_withStKeys (s : State) (v : Byte) (k : KeyVector) :
    (s.withStKeys v k).pop = (s.pop.1, s.pop.2.withStKeys v k) := by
  obtain ⟨h, hp⟩ | ⟨h, hp⟩ := s.pop_cases
  · rw [hp]
    exact dif_pos h
  · rw [hp]
    exact dif_neg (Nat.not_lt.mpr h.le)

theorem State.writeSeq_withStKeys (s : State) (a : Nat) (bytes : List Byte) (v : Byte) (k : KeyVector) :
    (s.withStKeys v k).writeSeq a bytes = (s.writeSeq a bytes).withStKeys v k := by
  induction bytes generalizing s a with
  | nil => rfl
  | cons b bytes ih => exact ih (s.writeByte a b) (a + 1)

theorem State.setRegs_withStKeys (s : State) (n : Nat) (bytes : List Byte) (v : Byte) (k : KeyVector) :
    (s.withStKeys v k).setRegs n bytes = (s.setRegs n bytes).withStKeys v k := by
  induction bytes generalizing s n with
  | nil => rfl
  | cons b bytes ih => exact ih { s with regs := s.regs.setIfInBounds n b } (n + 1)

theorem State.drawRows_withStKeys (s : State) (x0 y0 n : Nat) (p : Display × Bool) (v : Byte) (k : KeyVector) :
    (s.withStKeys v k).drawRows x0 y0 n p = s.drawRows x0 y0 n p := by
  induction n with
  | zero => rfl
  | succ n ih => exact congrArg (drawColumns (s.readByte (s.base + n)) (y0 + n) x0 8) ih

/-! ## No instruction reads `ST`, and only the two key skips read the keys -/

/-- With another `ST` and, unless the instruction is a key skip, other keys, an instruction gives the same next state
but for these two parts; `STST` overwrites the first. -/
theorem exec_withStKeys {i : Instr} {s t : State} (h : exec i s = .next t) (v : Byte) {k : KeyVector}
    (hk : i.mnemonic = .SKP ∨ i.mnemonic = .SKNP → k = s.keys) :
    exec i (s.withStKeys v k) = .next (t.withStKeys (if i.mnemonic = .STST then t.st else v) k) := by
  cases i
  all_goals
    obtain rfl := Host.Outcome.next.inj h
  case se | sne | ser | sner => exact congrArg _ (s.skipIf_withStKeys _ v k)
  case skp | sknp =>
    obtain rfl := hk (by simp [Instr.mnemonic])
    exact congrArg _ (s.skipIf_withStKeys _ v s.keys)
  case call nnn => exact congrArg (fun u => Host.Outcome.next (u.jump (target nnn))) (s.push_withStKeys s.pc v k)
  case ret => exact congrArg (fun p => Host.Outcome.next (p.2.jump p.1)) (s.pop_withStKeys v k)
  case bcd | stm => exact congrArg _ (s.writeSeq_withStKeys s.base _ v k)
  case ldm x => exact congrArg _ (s.setRegs_withStKeys 0 _ v k)
  case drw x y n =>
    exact congrArg (fun p => Host.Outcome.next (((s.withStKeys v k).setDisplay p.1).setFlag p.2))
      (s.drawRows_withStKeys (s.anchorX x) (s.anchorY y) n (s.fb, false) v k)
  all_goals rfl

/-! ## The obligations -/

/-- Settles O26: the keys stay as they are, and no instruction writes them. -/
theorem noInstructionReadsTheSoundTimer : Obligations.NoInstructionReadsTheSoundTimer := by
  intro i s t v h
  have hx : exec i { s with st := v } = _ := exec_withStKeys h v (k := s.keys) fun _ => rfl
  rw [hx, ← (exec_frame h).keys]
  exact ⟨fun hi => by rw [if_neg hi]; rfl, fun hi => by rw [if_pos hi]; rfl⟩

/-- Settles O27: `ST` stays as it is, and only `STST` writes it. -/
theorem onlyKeySkipsReadTheKeys : Obligations.OnlyKeySkipsReadTheKeys := by
  intro i s t keys hskp hsknp h
  have hx : exec i { s with keys := keys } = _ :=
    exec_withStKeys h s.st (k := keys) fun hi => absurd hi (not_or.mpr ⟨hskp, hsknp⟩)
  have hst : (if i.mnemonic = .STST then t.st else s.st) = t.st := by
    by_cases hi : i.mnemonic = .STST
    · rw [if_pos hi]
    · rw [if_neg hi, (exec_frame h).st (Bool.of_not_eq_true fun hw => hi (writes_st hw))]
  rw [hx, hst]
  rfl

end Sys2Proof.Machine
end

section
/-! PROOFS. The statement of 20_memory.md about the byte order of an instruction (R44): encoding and then decoding
gives every instruction back. -/

namespace Sys2Proof

/-! ## The classes that read a literal below the class (R64) -/

theorem decode_class5 {op : Word} (h : opClass op = 0x5#4) : decode op = decodeClass5 op := by simp [decode, h]

theorem decode_class8 {op : Word} (h : opClass op = 0x8#4) : decode op = decodeClass8 op := by simp [decode, h]

theorem decode_class9 {op : Word} (h : opClass op = 0x9#4) : decode op = decodeClass9 op := by simp [decode, h]

theorem decode_classE {op : Word} (h : opClass op = 0xE#4) : decode op = decodeClassE op := by simp [decode, h]

theorem decode_classF {op : Word} (h : opClass op = 0xF#4) : decode op = decodeClassF op := by simp [decode, h]

/-- The decoder finds the row by the class, and in classes 5, 8, 9, E and F by the literal below it; the fields of the
encoded word are the operands. -/
theorem decode_encode (i : Instr) : decode (encode i) = .ok i := by
  cases i
  case cls | ret => decide
  case jp | call | ldi | jp0 | se | sne | ld | add | rnd | drw => simp [decode, encode]
  case ser =>
    rw [encode, decode_class5 (opClass_encXYN ..)]
    simp [decodeClass5]
  case sner =>
    rw [encode, decode_class9 (opClass_encXYN ..)]
    simp [decodeClass9]
  case mov | or | and | xor | addc | sub | shr | subn | shl =>
    rw [encode, decode_class8 (opClass_encXYN ..)]
    simp [decodeClass8]
  case skp | sknp =>
    rw [encode, decode_classE (opClass_encXNN ..)]
    simp [decodeClassE]
  case lddt | ldk | stdt | stst | addi | font | bcd | stm | ldm =>
    rw [encode, decode_classF (opClass_encXNN ..)]
    simp [decodeClassF]

/-- Settles O2: the two bytes put together are the word, and the word decodes to its instruction. -/
theorem encodedInstructionDecodesToItself : Obligations.EncodedInstructionDecodesToItself := by
  intro i
  have hword := decode_encode i
  exact ⟨by rwa [decodeBytes, wordOfBytes_hi_lo], hword⟩

end Sys2Proof
end

section
/-! PROOFS. The statements of 20_memory.md about reads and writes of bytes (R40, R41, R42), the fetch (R44, R81) and
a store over the instruction stream (R53, R187). -/

namespace Sys2Proof.Machine

/-! ## One byte -/

theorem State.readByte_outside (s : State) {a : Nat} (h : memSize ≤ a) : s.readByte a = 0 :=
  Memory.read_outside s.cfg.font s.mem h

theorem State.writeByte_outside (s : State) {a : Nat} (h : memSize ≤ a) (v : Byte) : s.writeByte a v = s := by
  rw [State.writeByte, Memory.write, if_neg (Nat.not_lt.mpr h)]

theorem State.frame_writeByte (s : State) (a : Nat) (v : Byte) : Frame { mem := true } s (s.writeByte a v) := by
  constructor <;> simp [State.reg]

/-- Settles O34, by the read after a write. -/
theorem readsAndWritesAreBoundsChecked : Obligations.ReadsAndWritesAreBoundsChecked := by
  intro s a v
  refine ⟨s.readByte_outside, fun h => s.writeByte_outside h v, fun h => ?_, fun b hb => ?_, s.frame_writeByte a v⟩
  · rw [State.readByte_writeByte, if_pos ⟨rfl, h⟩]
  · rw [State.readByte_writeByte, if_neg fun h => hb h.1]

/-! ## A string of bytes -/

theorem State.readByte_writeSeq_landed (s : State) (start : Nat) (bytes : List Byte) {k : Nat}
    (hk : k < bytes.length) (hmem : start + k < memSize) :
    (s.writeSeq start bytes).readByte (start + k) = bytes[k] := by
  rw [State.readByte_writeSeq, dif_pos (by omega)]
  simp

theorem State.frame_writeSeq (s : State) (start : Nat) (bytes : List Byte) :
    Frame { mem := true } s (s.writeSeq start bytes) := by
  constructor <;> simp [State.reg]

/-- Settles O35: the reads after a sequence of writes say which bytes landed. -/
theorem writeSequenceChecksEachByte : Obligations.WriteSequenceChecksEachByte := by
  intro s start bytes
  refine ⟨fun k hk hmem => s.readByte_writeSeq_landed start bytes hk hmem, fun a ha => ?_,
    s.frame_writeSeq start bytes⟩
  rw [State.readByte_writeSeq, dif_neg (by unfold memSize; omega)]

/-! ## The fetch -/

/-- The byte at the lower address is the more significant one (R44). -/
theorem wordOfBytes_toNat (hi lo : Byte) : (wordOfBytes hi lo).toNat = hi.toNat * 256 + lo.toNat := by
  calc (hi ++ lo : BitVec (8 + 8)).toNat = hi.toNat <<< 8 ||| lo.toNat := BitVec.toNat_append hi lo
    _ = hi.toNat <<< 8 + lo.toNat := (Nat.shiftLeft_add_eq_or_of_lt lo.isLt hi.toNat).symm
    _ = hi.toNat * 256 + lo.toNat := by rw [Nat.shiftLeft_eq]

theorem State.fetchWord_toNat (s : State) :
    s.fetchWord.toNat = (s.readByte s.pc.toNat).toNat * 256 + (s.readByte (s.pc.toNat + 1)).toNat :=
  wordOfBytes_toNat _ _

/-- Settles O12: with `pc` = 4095 the second byte lies outside memory, with `pc` above it both do. -/
theorem fetchReadsTwoBytesAndAdvances : Obligations.FetchReadsTwoBytesAndAdvances := by
  intro s
  refine ⟨s.fetchWord_toNat, State.fetchWord_outside, fun hpc => ?_, BitVec.toNat_add s.pc 2, s.frame_jump _⟩
  have hlow : s.readByte 4096 = 0 := s.readByte_outside (Nat.le_refl memSize)
  calc s.fetchWord.toNat = (s.readByte 4095).toNat * 256 + (s.readByte 4096).toNat := by rw [s.fetchWord_toNat, hpc]
    _ = (s.readByte 4095).toNat * 256 := by simp [hlow]

/-! ## A store over the instruction stream -/

/-- `STM` stores `x[k]` at `I + k`, for `k` below 15, where that address is in memory (R135; C1, D11). -/
theorem exec_stm_readByte {x : Reg} {s t : State} (h : exec (.stm x) s = .next t) {k : Nat} (hk : k < 15)
    (hmem : s.base + k < memSize) : t.readByte (s.base + k) = s.reg ⟨k, by omega⟩ := by
  obtain rfl := Host.Outcome.next.inj h
  rw [State.readByte_writeSeq_landed s s.base _ (by simpa using hk) hmem, State.firstRegs_getElem]

/-- Settles O55: with `I` = `pc` the store of `x[0]` and `x[1]` lands on the two bytes that the fetch reads. -/
theorem storedInstructionIsFetchedNext : Obligations.StoredInstructionIsFetchedNext := by
  intro s x hidx hmem
  obtain ⟨t, ht⟩ : ∃ t, exec (.stm x) s = .next t := ⟨_, rfl⟩
  have hpc : t.pc.toNat = s.base := congrArg BitVec.toNat (((exec_frame ht).pc rfl).trans hidx.symm)
  have hbase : s.base + 1 < memSize := by rwa [State.base, hidx]
  have hhi : t.readByte s.base = s.reg 0 := exec_stm_readByte ht (k := 0) (by decide) (Nat.lt_of_succ_lt hbase)
  have hlo : t.readByte (s.base + 1) = s.reg 1 := exec_stm_readByte ht (by decide) hbase
  refine ⟨t, ht, ?_⟩
  rw [State.fetch, State.fetchWord_toNat, hpc, hhi, hlo]

end Sys2Proof.Machine
end

section
/-! PROOFS. The statements of 30_encoding.md about the fields of a word (R62), and a recognised word as the encoding of
its instruction (R61, R64). -/

namespace Sys2Proof

/-! ## The fields as numbers (R62) -/

theorem opClass_toNat (op : Word) : (opClass op).toNat = op.toNat / 4096 := by
  rw [opClass, BitVec.extractLsb'_toNat, Nat.shiftRight_eq_div_pow]
  omega

theorem opX_val (op : Word) : (opX op).val = op.toNat / 256 % 16 := by
  rw [opX, BitVec.val_toFin, BitVec.extractLsb'_toNat, Nat.shiftRight_eq_div_pow]

theorem opY_val (op : Word) : (opY op).val = op.toNat / 16 % 16 := by
  rw [opY, BitVec.val_toFin, BitVec.extractLsb'_toNat, Nat.shiftRight_eq_div_pow]

theorem opN_val (op : Word) : (opN op).val = op.toNat % 16 := by
  rw [opN, BitVec.val_toFin, BitVec.extractLsb'_toNat, Nat.shiftRight_zero]

theorem opNN_toNat (op : Word) : (opNN op).toNat = op.toNat % 256 := by
  rw [opNN, BitVec.extractLsb'_toNat, Nat.shiftRight_zero]

theorem opNNN_toNat (op : Word) : (opNNN op).toNat = op.toNat % 4096 := by
  rw [opNNN, BitVec.extractLsb'_toNat, Nat.shiftRight_zero]

/-- Settles O6: with each field a quotient and a remainder of the word, the overlaps are arithmetic. -/
theorem wordFieldsAreItsSlices : Obligations.WordFieldsAreItsSlices := by
  intro op
  refine ⟨opClass_toNat op, opX_val op, opY_val op, opN_val op, opNN_toNat op, opNNN_toNat op, ?_, ?_⟩
  · rw [opNN_toNat, opY_val, opN_val]
    omega
  · rw [opNNN_toNat, opX_val, opY_val, opN_val]
    omega

/-! ## A word is its fields put together (R61) -/

theorem encNNN_fields (op : Word) : encNNN (opClass op) (opNNN op) = op :=
  (BitVec.extractLsb'_append_extractLsb'_eq_extractLsb' rfl).trans BitVec.extractLsb'_eq_self

theorem encXNN_fields (op : Word) : encXNN (opClass op) (opX op) (opNN op) = op := by
  have hhi : op.extractLsb' 12 4 ++ op.extractLsb' 8 4 = op.extractLsb' 8 8 :=
    BitVec.extractLsb'_append_extractLsb'_eq_extractLsb' rfl
  have hall : op.extractLsb' 8 8 ++ op.extractLsb' 0 8 = op.extractLsb' 0 16 :=
    BitVec.extractLsb'_append_extractLsb'_eq_extractLsb' rfl
  show op.extractLsb' 12 4 ++ op.extractLsb' 8 4 ++ op.extractLsb' 0 8 = op
  rw [hhi, hall, BitVec.extractLsb'_eq_self]

theorem encXYN_fields (op : Word) : encXYN (opClass op) (opX op) (opY op) (opN op) = op := by
  have hhi : op.extractLsb' 12 4 ++ op.extractLsb' 8 4 = op.extractLsb' 8 8 :=
    BitVec.extractLsb'_append_extractLsb'_eq_extractLsb' rfl
  have hmid : op.extractLsb' 8 8 ++ op.extractLsb' 4 4 = op.extractLsb' 4 12 :=
    BitVec.extractLsb'_append_extractLsb'_eq_extractLsb' rfl
  have hall : op.extractLsb' 4 12 ++ op.extractLsb' 0 4 = op.extractLsb' 0 16 :=
    BitVec.extractLsb'_append_extractLsb'_eq_extractLsb' rfl
  show op.extractLsb' 12 4 ++ op.extractLsb' 8 4 ++ op.extractLsb' 4 4 ++ op.extractLsb' 0 4 = op
  rw [hhi, hmid, hall, BitVec.extractLsb'_eq_self]

theorem encNNN_of_class {op : Word} {c : BitVec 4} (hc : (opClass op).toNat = c.toNat) :
    encNNN c (opNNN op) = op := by
  rw [← BitVec.eq_of_toNat_eq hc, encNNN_fields]

theorem encXNN_of_class {op : Word} {c : BitVec 4} (hc : (opClass op).toNat = c.toNat) :
    encXNN c (opX op) (opNN op) = op := by
  rw [← BitVec.eq_of_toNat_eq hc, encXNN_fields]

theorem encXYN_of_class {op : Word} {c : BitVec 4} (hc : (opClass op).toNat = c.toNat) :
    encXYN c (opX op) (opY op) (opN op) = op := by
  rw [← BitVec.eq_of_toNat_eq hc, encXYN_fields]

theorem encNNN_of_class_of_nnn {op : Word} {c : BitVec 4} {nnn : Addr12} (hc : (opClass op).toNat = c.toNat)
    (hn : (opNNN op).toNat = nnn.toNat) : encNNN c nnn = op := by
  rw [← BitVec.eq_of_toNat_eq hn, encNNN_of_class hc]

theorem encXNN_of_class_of_nn {op : Word} {c : BitVec 4} {nn : Byte} (hc : (opClass op).toNat = c.toNat)
    (hn : (opNN op).toNat = nn.toNat) : encXNN c (opX op) nn = op := by
  rw [← BitVec.eq_of_toNat_eq hn, encXNN_of_class hc]

theorem encXYN_of_class_of_n {op : Word} {c : BitVec 4} {n : Fin 16} (hc : (opClass op).toNat = c.toNat)
    (hn : (opN op).val = n.val) : encXYN c (opX op) (opY op) n = op := by
  rw [← Fin.ext hn, encXYN_of_class hc]

/-! ## A recognised word is the encoding of its instruction -/

section Recognised
variable {op : Word} {i : Instr}

theorem encode_of_decodeClass0 (hc : (opClass op).toNat = 0) (h : decodeClass0 op = .ok i) : encode i = op := by
  unfold decodeClass0 at h
  split at h
  case h_1 hnnn => cases h; exact encNNN_of_class_of_nnn (c := 0x0#4) (nnn := 0x0E0#12) hc hnnn
  case h_2 hnnn => cases h; exact encNNN_of_class_of_nnn (c := 0x0#4) (nnn := 0x0EE#12) hc hnnn
  case h_3 => nomatch h

theorem encode_of_decodeClass5 (hc : (opClass op).toNat = 5) (h : decodeClass5 op = .ok i) : encode i = op := by
  unfold decodeClass5 at h
  split at h
  case h_1 hn => cases h; exact encXYN_of_class_of_n hc hn
  case h_2 => nomatch h

theorem encode_of_decodeClass8 (hc : (opClass op).toNat = 8) (h : decodeClass8 op = .ok i) : encode i = op := by
  unfold decodeClass8 at h
  split at h
  case h_10 => nomatch h
  all_goals next hn => cases h; exact encXYN_of_class_of_n hc hn

theorem encode_of_decodeClass9 (hc : (opClass op).toNat = 9) (h : decodeClass9 op = .ok i) : encode i = op := by
  unfold decodeClass9 at h
  split at h
  case h_1 hn => cases h; exact encXYN_of_class_of_n hc hn
  case h_2 => nomatch h

theorem encode_of_decodeClassE (hc : (opClass op).toNat = 14) (h : decodeClassE op = .ok i) : encode i = op := by
  unfold decodeClassE at h
  split at h
  case h_3 => nomatch h
  all_goals next hnn => cases h; exact encXNN_of_class_of_nn hc hnn

theorem encode_of_decodeClassF (hc : (opClass op).toNat = 15) (h : decodeClassF op = .ok i) : encode i = op := by
  unfold decodeClassF at h
  split at h
  case h_10 => nomatch h
  all_goals next hnn => cases h; exact encXNN_of_class_of_nn hc hnn

theorem encode_of_decode (h : decode op = .ok i) : encode i = op := by
  unfold decode at h
  split at h
  case h_1 hc => exact encode_of_decodeClass0 hc h
  case h_6 hc => exact encode_of_decodeClass5 hc h
  case h_9 hc => exact encode_of_decodeClass8 hc h
  case h_10 hc => exact encode_of_decodeClass9 hc h
  case h_15 hc => exact encode_of_decodeClassE hc h
  case h_16 =>
    have hlt := (opClass op).isLt
    have hc : (opClass op).toNat = 15 := by grind
    exact encode_of_decodeClassF hc h
  case h_2 hc | h_3 hc | h_11 hc | h_12 hc => cases h; exact encNNN_of_class hc
  case h_4 hc | h_5 hc | h_7 hc | h_8 hc | h_13 hc => cases h; exact encXNN_of_class hc
  case h_14 hc => cases h; exact encXYN_of_class hc

end Recognised

/-- Settles O3, class by class: what the decoder reads of a word is every field that the encoder writes. -/
theorem recognisedWordIsItsInstructionsEncoding : Obligations.RecognisedWordIsItsInstructionsEncoding :=
  fun _ _ => encode_of_decode

end Sys2Proof
end

section
/-! PROOFS. The statements of 30_encoding.md about the opcode map (R64, R65), the words that it leaves out (R70)
and the step on such a word. -/

namespace Sys2Proof

/-! ## What a mask compares (R65) -/

/-- The mask of the field of `w` bits from bit `lo` up. -/
def fieldMask (lo w : Nat) : Word := (BitVec.allOnes w).setWidth 16 <<< lo

theorem fieldMask_getLsbD (lo w k : Nat) :
    (fieldMask lo w).getLsbD k = decide (k < 16 ∧ lo ≤ k ∧ k < lo + w) := by
  simp only [fieldMask, BitVec.getLsbD_shiftLeft, BitVec.getLsbD_setWidth, BitVec.getLsbD_allOnes]
  rw [Bool.eq_iff_iff]
  simp only [Bool.and_eq_true, Bool.not_eq_true', decide_eq_true_eq, decide_eq_false_iff_not]
  omega

theorem and_fieldMask_eq_iff {op p : Word} {lo w : Nat} :
    op &&& fieldMask lo w = p &&& fieldMask lo w ↔ op.extractLsb' lo w = p.extractLsb' lo w := by
  simp only [BitVec.eq_of_getLsbD_eq_iff, BitVec.getLsbD_and, fieldMask_getLsbD, BitVec.getLsbD_extractLsb']
  refine ⟨fun h k hk => ?_, fun h k hk => ?_⟩
  · by_cases hlt : lo + k < 16
    · simpa [hlt, hk] using h (lo + k) hlt
    · rw [BitVec.getLsbD_of_ge op _ (by omega), BitVec.getLsbD_of_ge p _ (by omega)]
  · by_cases hin : lo ≤ k ∧ k < lo + w
    · have hk' : k - lo < w := by omega
      simpa [hk, hin, hk', Nat.add_sub_cancel' hin.1] using h (k - lo) hk'
    · simp [hin]

theorem and_or_eq_and_or_iff {op p m m' : Word} :
    op &&& (m ||| m') = p &&& (m ||| m') ↔ op &&& m = p &&& m ∧ op &&& m' = p &&& m' := by
  simp only [BitVec.eq_of_getLsbD_eq_iff, BitVec.getLsbD_and, BitVec.getLsbD_or, ← forall_and]
  refine forall₂_congr fun k _ => ?_
  cases m.getLsbD k <;> cases m'.getLsbD k <;> simp

theorem and_F000_eq_iff {op p : Word} (hp : p &&& 0xF000 = p) : op &&& 0xF000 = p ↔ opClass op = opClass p := by
  conv_lhs => rw [← hp]
  exact and_fieldMask_eq_iff (lo := 12) (w := 4)

theorem and_F00F_eq_iff {op p : Word} (hp : p &&& 0xF00F = p) :
    op &&& 0xF00F = p ↔ opClass op = opClass p ∧ opN op = opN p := by
  conv_lhs => rw [← hp, show (0xF00F : Word) = fieldMask 12 4 ||| fieldMask 0 4 from rfl, and_or_eq_and_or_iff]
  exact and_congr and_fieldMask_eq_iff (and_fieldMask_eq_iff.trans BitVec.toFin_inj.symm)

theorem and_F0FF_eq_iff {op p : Word} (hp : p &&& 0xF0FF = p) :
    op &&& 0xF0FF = p ↔ opClass op = opClass p ∧ opNN op = opNN p := by
  conv_lhs => rw [← hp, show (0xF0FF : Word) = fieldMask 12 4 ||| fieldMask 0 8 from rfl, and_or_eq_and_or_iff]
  exact and_congr and_fieldMask_eq_iff and_fieldMask_eq_iff

/-- The literal fields of a format (R61) are in `op` what they are in `p`. -/
def Format.LiteralsAgree (f : Format) (op p : Word) : Prop :=
  match f with
  | .FIXED => op = p
  | .NNN | .XNN | .XYN => opClass op = opClass p
  | .XY => opClass op = opClass p ∧ opN op = opN p
  | .X => opClass op = opClass p ∧ opNN op = opNN p

/-- A row's mask covers exactly the literal fields of its format. -/
theorem Mnemonic.selects_iff (m : Mnemonic) (op : Word) :
    m.selects op = true ↔ m.format.LiteralsAgree op m.pattern := by
  rw [Mnemonic.selects, beq_iff_eq]
  cases m
  case CLS | RET => rw [Mnemonic.mask, show (0xFFFF : Word) = BitVec.allOnes 16 from rfl, BitVec.and_allOnes]; rfl
  case JP | CALL | SE | SNE | LD | ADD | LDI | JP0 | RND | DRW => exact and_F000_eq_iff rfl
  case SER | MOV | OR | AND | XOR | ADDC | SUB | SHR | SUBN | SHL | SNER => exact and_F00F_eq_iff rfl
  case SKP | SKNP | LDDT | LDK | STDT | STST | ADDI | FONT | BCD | STM | LDM => exact and_F0FF_eq_iff rfl

/-! ## The rows and the decoder (R64) -/

/-- The literal fields of an encoded word are those of its row's pattern. -/
theorem selects_encode (i : Instr) : i.mnemonic.selects (encode i) = true := by
  rw [Mnemonic.selects_iff]
  cases i
  -- With the mnemonic in place of the instruction, the fields of its pattern are numbers.
  all_goals rw [Instr.mnemonic]
  case cls | ret => rfl
  case jp | call | ldi | jp0 => exact (opClass_encNNN ..).trans rfl
  case se | sne | ld | add | rnd => exact (opClass_encXNN ..).trans rfl
  case drw => exact (opClass_encXYN ..).trans rfl
  case ser | mov | or | and | xor | addc | sub | shr | subn | shl | sner =>
    exact ⟨(opClass_encXYN ..).trans rfl, (opN_encXYN ..).trans rfl⟩
  case skp | sknp | lddt | ldk | stdt | stst | addi | font | bcd | stm | ldm =>
    exact ⟨(opClass_encXNN ..).trans rfl, (opNN_encXNN ..).trans rfl⟩

theorem exists_decode_of_selects {op : Word} {m : Mnemonic} (h : m.selects op = true) :
    ∃ i, decode op = .ok i ∧ i.mnemonic = m := by
  rw [Mnemonic.selects_iff] at h
  cases m
  case CLS | RET =>
    obtain rfl : op = _ := h
    exact ⟨_, rfl, rfl⟩
  case JP | CALL | LDI | JP0 | SE | SNE | LD | ADD | RND | DRW =>
    have hc : opClass op = _ := h
    rw [decode, hc]
    exact ⟨_, rfl, rfl⟩
  case SER =>
    obtain ⟨hc, hn⟩ := h
    rw [decode_class5 hc, decodeClass5, hn]
    exact ⟨_, rfl, rfl⟩
  case SNER =>
    obtain ⟨hc, hn⟩ := h
    rw [decode_class9 hc, decodeClass9, hn]
    exact ⟨_, rfl, rfl⟩
  case MOV | OR | AND | XOR | ADDC | SUB | SHR | SUBN | SHL =>
    obtain ⟨hc, hn⟩ := h
    rw [decode_class8 hc, decodeClass8, hn]
    exact ⟨_, rfl, rfl⟩
  case SKP | SKNP =>
    obtain ⟨hc, hn⟩ := h
    rw [decode_classE hc, decodeClassE, hn]
    exact ⟨_, rfl, rfl⟩
  case LDDT | LDK | STDT | STST | ADDI | FONT | BCD | STM | LDM =>
    obtain ⟨hc, hn⟩ := h
    rw [decode_classF hc, decodeClassF, hn]
    exact ⟨_, rfl, rfl⟩

/-- Settles O4: a row's literal fields lead the decoder to its instruction, and a recognised word is the encoding of its
instruction, which the row selects. -/
theorem decoderFollowsTheOpcodeMap : Obligations.DecoderFollowsTheOpcodeMap := by
  intro op m
  refine ⟨exists_decode_of_selects, fun ⟨i, hop, hm⟩ => ?_⟩
  rw [← encode_of_decode hop, ← hm]
  exact selects_encode i

/-- Settles O5: the instruction of a word has one mnemonic. -/
theorem opcodeRowsAreMutuallyExclusive : Obligations.OpcodeRowsAreMutuallyExclusive := by
  intro op m m' h h'
  obtain ⟨i, hi, rfl⟩ := (decoderFollowsTheOpcodeMap op m).mp h
  obtain ⟨i', hi', rfl⟩ := (decoderFollowsTheOpcodeMap op m').mp h'
  rw [Except.ok.inj (hi.symm.trans hi')]

/-! ## The rejected words (R70) -/

section Rejected
variable {op : Word} {r : Reject}

theorem decodeClass0_eq_error_iff :
    decodeClass0 op = .error r ↔ .class0 = r ∧ (opNNN op).toNat ∉ [0x0E0, 0x0EE] := by
  unfold decodeClass0
  split <;> simp_all

theorem decodeClass5_eq_error_iff : decodeClass5 op = .error r ↔ .class5 = r ∧ (opN op).val ≠ 0 := by
  unfold decodeClass5
  split <;> simp_all

theorem decodeClass8_eq_error_iff :
    decodeClass8 op = .error r ↔ .class8 = r ∧ (opN op).val ∉ [0, 1, 2, 3, 4, 5, 6, 7, 14] := by
  unfold decodeClass8
  split <;> simp_all

theorem decodeClass9_eq_error_iff : decodeClass9 op = .error r ↔ .class9 = r ∧ (opN op).val ≠ 0 := by
  unfold decodeClass9
  split <;> simp_all

theorem decodeClassE_eq_error_iff :
    decodeClassE op = .error r ↔ .classE = r ∧ (opNN op).toNat ∉ [0x9E, 0xA1] := by
  unfold decodeClassE
  split <;> simp_all

theorem decodeClassF_eq_error_iff :
    decodeClassF op = .error r ↔
      .classF = r ∧ (opNN op).toNat ∉ [0x07, 0x0A, 0x15, 0x18, 0x1E, 0x29, 0x33, 0x55, 0x65] := by
  unfold decodeClassF
  split <;> simp_all

/-- Only six of the sixteen classes hold rejected words. -/
theorem decode_eq_error_iff :
    decode op = .error r ↔
      (opClass op).toNat = 0 ∧ decodeClass0 op = .error r ∨
      (opClass op).toNat = 5 ∧ decodeClass5 op = .error r ∨
      (opClass op).toNat = 8 ∧ decodeClass8 op = .error r ∨
      (opClass op).toNat = 9 ∧ decodeClass9 op = .error r ∨
      (opClass op).toNat = 14 ∧ decodeClassE op = .error r ∨
      (opClass op).toNat = 15 ∧ decodeClassF op = .error r := by
  unfold decode
  split
  case h_16 =>
    have hlt := (opClass op).isLt
    have hc : (opClass op).toNat = 15 := by grind
    simp [hc]
  all_goals next hc => simp [hc]

end Rejected

/-- Settles O7: a kind's name is raised in its class only, and there by the literal field that the class reads; the
statement names the same words by their numbers. -/
theorem rejectedWordsAreTheUnrecognisedOnes : Obligations.RejectedWordsAreTheUnrecognisedOnes := by
  intro op
  simp only [decode_eq_error_iff, decodeClass0_eq_error_iff, decodeClass5_eq_error_iff, decodeClass8_eq_error_iff,
    decodeClass9_eq_error_iff, decodeClassE_eq_error_iff, decodeClassF_eq_error_iff, reduceCtorEq, false_and, and_false,
    true_and, or_false, false_or, opClass_toNat, opN_val, opNN_toNat, opNNN_toNat, and_true]
  -- Left are class 0, where the statement names the two whole words, and class 8, where it lists the rejected nibbles.
  constructor
  · simp only [List.mem_cons, List.not_mem_nil, or_false, ne_eq, ← BitVec.toNat_inj, BitVec.ofNat_eq_ofNat,
      BitVec.toNat_ofNat]
    omega
  · simp only [List.mem_cons, List.not_mem_nil, or_false]
    omega

end Sys2Proof

namespace Sys2Proof.Machine

/-- Settles O11: the two bytes at `pc` put together are the word that the step fetches. -/
theorem unrecognisedWordOnlyAdvancesPc : Obligations.UnrecognisedWordOnlyAdvancesPc := by
  intro s s0 keys r hnext hw hd
  calc step s = stepOp keys s0 := step_of_nextOp hnext
    _ = .next { s0 with keys := keys, pc := s0.pc + 2 } := stepOp_unrecognised keys hw hd

end Sys2Proof.Machine
end

section
/-! PROOFS. The statements of 30_encoding.md about the decode table of 95_test_vectors.md and about program texts: lines
(R71), labels and the image (R71, R72). -/

namespace Sys2Proof

/-- Settles O1, by running the decoder on the 17 words. -/
theorem sampleWordsDecodeAsTheSpecSays : Obligations.SampleWordsDecodeAsTheSpecSays := by
  unfold Obligations.SampleWordsDecodeAsTheSpecSays
  decide

/-! ## The operands of a line -/

@[simp] theorem asmReg_val (x : Fin 16) : asmReg x.val = some x := dif_pos x.isLt

@[simp] theorem asmReg_isSome (n : Nat) : (asmReg n).isSome = decide (n < 16) := by
  by_cases h : n < 16 <;> simp [asmReg, h]

@[simp] theorem asmImm_toNat {w : Nat} (v : BitVec w) : asmImm w v.toNat = some v := by
  rw [asmImm, if_pos v.isLt, BitVec.ofNat_toNat, BitVec.setWidth_eq]

@[simp] theorem asmImm_isSome (w n : Nat) : (asmImm w n).isSome = decide (n < 2 ^ w) := by
  by_cases h : n < 2 ^ w <;> simp [asmImm, h]

theorem isSome_asmReg_bind {n : Nat} {f : Fin 16 → Option Instr} {b : Bool} (hf : ∀ x, (f x).isSome = b) :
    ((asmReg n).bind f).isSome = (decide (n < 16) && b) := by
  by_cases h : n < 16 <;> simp [asmReg, h, hf]

/-! ## Each operand reader takes what its format accepts -/

theorem asmFixed_isSome (i : Instr) (ops : List Nat) : (asmFixed i ops).isSome = Format.FIXED.accepts ops := by
  match ops with
  | [] | _ :: _ => rfl

theorem asmNNN_isSome (f : Addr12 → Instr) (ops : List Nat) : (asmNNN f ops).isSome = Format.NNN.accepts ops := by
  match ops with
  | [nnn] => exact Option.isSome_map.trans (asmImm_isSome 12 nnn)
  | [] | _ :: _ :: _ => rfl

theorem asmXNN_isSome (f : Reg → Byte → Instr) (ops : List Nat) :
    (asmXNN f ops).isSome = Format.XNN.accepts ops := by
  match ops with
  | [x, nn] => exact isSome_asmReg_bind fun _ => Option.isSome_map.trans (asmImm_isSome 8 nn)
  | [] | [_] | _ :: _ :: _ :: _ => rfl

theorem asmXY_isSome (f : Reg → Reg → Instr) (ops : List Nat) : (asmXY f ops).isSome = Format.XY.accepts ops := by
  match ops with
  | [x, y] => exact isSome_asmReg_bind fun _ => Option.isSome_map.trans (asmReg_isSome y)
  | [] | [_] | _ :: _ :: _ :: _ => rfl

theorem asmXYN_isSome (f : Reg → Reg → Fin 16 → Instr) (ops : List Nat) :
    (asmXYN f ops).isSome = Format.XYN.accepts ops := by
  match ops with
  | [x, y, n] =>
    rw [Format.accepts, Bool.and_assoc]
    exact isSome_asmReg_bind fun _ => isSome_asmReg_bind fun _ => Option.isSome_map.trans (asmReg_isSome n)
  | [] | [_] | [_, _] | _ :: _ :: _ :: _ :: _ => rfl

theorem asmX_isSome (f : Reg → Instr) (ops : List Nat) : (asmX f ops).isSome = Format.X.accepts ops := by
  match ops with
  | [x] => exact Option.isSome_map.trans (asmReg_isSome x)
  | [] | _ :: _ :: _ => rfl

/-! ## Lines (R71) -/

/-- The reader of an instruction's format reads its operands back. -/
theorem assemble_asmLine (i : Instr) : assemble i.asmLine = some i := by
  cases i <;>
    simp [Instr.asmLine, Instr.mnemonic, Instr.operands, assemble, asmFixed, asmNNN, asmXNN, asmXY, asmXYN, asmX]

theorem assemble_isSome (l : AsmLine) : (assemble l).isSome = l.wellFormed := by
  obtain ⟨m, ops⟩ := l
  cases m
  case CLS | RET => exact asmFixed_isSome _ ops
  case JP | CALL | LDI | JP0 => exact asmNNN_isSome _ ops
  case SE | SNE | LD | ADD | RND => exact asmXNN_isSome _ ops
  case SER | MOV | OR | AND | XOR | ADDC | SUB | SHR | SUBN | SHL | SNER => exact asmXY_isSome _ ops
  case DRW => exact asmXYN_isSome _ ops
  case SKP | SKNP | LDDT | LDK | STDT | STST | ADDI | FONT | BCD | STM | LDM => exact asmX_isSome _ ops

/-- Settles O8: each mnemonic's operand reader is its format's. -/
theorem wellFormedLinesAssemble : Obligations.WellFormedLinesAssemble := ⟨assemble_asmLine, assemble_isSome⟩

/-! ## Labels (R71) -/

theorem labelsFrom_append (a : Nat) (pre post : List SourceItem) :
    labelsFrom a (pre ++ post) = labelsFrom a pre ++ labelsFrom (a + sourceSize pre) post := by
  induction pre generalizing a with
  | nil => rfl
  | cons i is ih =>
    cases i with
    | label l => simp [labelsFrom, sourceSize, SourceItem.size, ih]
    | instr m ops => simp [labelsFrom, sourceSize, ih, Nat.add_assoc]
    | db ops => simp [labelsFrom, sourceSize, ih, Nat.add_assoc]

theorem lookup_label {a : Nat} {pre post : List SourceItem} {l : List Char}
    (hl : l ∉ (labelsFrom a pre).map Prod.fst) :
    (labelsFrom a (pre ++ .label l :: post)).lookup l = some (a + sourceSize pre) := by
  have hpre : (labelsFrom a pre).lookup l = none := by
    rw [List.lookup_eq_none_iff]
    intro p hp
    exact bne_iff_ne.mpr fun h => hl (h ▸ List.mem_map_of_mem hp)
  rw [labelsFrom_append, List.lookup_append, hpre, labelsFrom, List.lookup_cons_self, Option.none_or]

/-! ## The image (R71, R72) -/

theorem image_length_of_resolve {labels : List (List Char × Nat)} {items : List SourceItem}
    {lines : List (List AsmItem)} {bytes : List Byte} (hlines : items.mapM (SourceItem.resolve labels) = some lines)
    (hbytes : programImage lines.flatten = some bytes) : bytes.length = sourceSize items := by
  induction items generalizing lines bytes with
  | nil =>
    obtain rfl : [] = lines := Option.some.inj hlines
    obtain rfl : [] = bytes := Option.some.inj hbytes
    rfl
  | cons item items ih =>
    simp only [List.mapM_cons, Option.pure_def, Option.bind_eq_bind, Option.bind_eq_some_iff,
      Option.some.injEq] at hlines
    obtain ⟨ls, hls, rest, hrest, rfl⟩ := hlines
    obtain ⟨x, y, hx, hy, rfl⟩ := programImage_append ls rest.flatten bytes hbytes
    rw [List.length_append, item.resolve_length labels ls x hls hx, ih hrest hy, sourceSize]

theorem sourceImage_length {items : List SourceItem} {bytes : List Byte} (h : sourceImage items = some bytes) :
    bytes.length = sourceSize items := by
  unfold sourceImage at h
  split at h
  · obtain ⟨lines, hlines, hbytes⟩ := Option.bind_eq_some_iff.mp h
    exact image_length_of_resolve hlines hbytes
  · nomatch h

/-- Settles O9: by induction on the items, both the addresses and the image advance by each item's size. -/
theorem labelStandsForTheAddressOfWhatFollows : Obligations.LabelStandsForTheAddressOfWhatFollows :=
  ⟨fun _ _ _ => lookup_label, fun _ _ => sourceImage_length⟩

end Sys2Proof
end

section
/-! PROOFS. The statements of 40_step_and_fetch.md about the step (R80 to R83, R85) and of 41_control_flow.md about the
skips on registers (R84, R94 to R97). -/

namespace Sys2Proof.Machine

/-! ## Every step answers a next state (R85, R160) -/

theorem exists_exec (i : Instr) (s : State) : ∃ t, exec i s = .next t := by
  cases i <;> exact ⟨_, rfl⟩

theorem exists_execute (op : Word) (s : State) : ∃ t, execute op s = .next t := by
  cases hd : decode op with
  | ok i => exact execute_ok hd s ▸ exists_exec i s
  | error r => exact ⟨s, execute_error hd s⟩

theorem exists_stepOp (keys : KeyVector) (s : State) : ∃ t, stepOp keys s = .next t := by
  cases hw : s.wait with
  | running => exact stepOp_execute keys hw ▸ exists_execute _ _
  | awaitingKey r => exact ⟨_, stepOp_waiting keys hw⟩

theorem exists_applyOp (op : HostOp) (s : State) : ∃ t, applyOp op s = .next t := by
  cases op with
  | reset | load | tickTimers => exact ⟨_, rfl⟩
  | step keys => exact exists_stepOp keys s

/-- Settles O13: no arm of the dispatch and no operation of the host has another outcome. -/
theorem everyStepAnswersANextState : Obligations.EveryStepAnswersANextState :=
  ⟨exists_exec, fun s => exists_applyOp s.nextOp.1 s.nextOp.2⟩

/-- Settles O10: the two bytes at `pc` put together are the word that the step fetches. -/
theorem stepRunsTheDecodedInstruction : Obligations.StepRunsTheDecodedInstruction := by
  intro s s0 keys i hnext hw hd
  calc step s = stepOp keys s0 := step_of_nextOp hnext
    _ = exec i { s0 with keys := keys, pc := s0.pc + 2 } := stepOp_running keys hw hd

/-! ## The skip (R84) -/

theorem State.frame_skipIf (s : State) (c : Bool) : Frame { pc := true } s (s.skipIf c) := by
  constructor <;> simp [State.reg, State.readByte]

/-- The skip is modulo 65536 (D3). -/
theorem State.skipIf_pc_toNat (s : State) (c : Bool) :
    (s.skipIf c).pc.toNat = (s.pc.toNat + if c then 2 else 0) % 65536 := by
  cases c
  · exact (Nat.mod_eq_of_lt s.pc.isLt).symm
  · exact BitVec.toNat_add s.pc 2

/-- Settles O42: each of the four is `skipIf` on its comparison. -/
theorem registerSkipsCompareAndSkip : Obligations.RegisterSkipsCompareAndSkip := by
  intro s x y nn
  refine ⟨⟨_, rfl, s.frame_skipIf _, ?_⟩, ⟨_, rfl, s.frame_skipIf _, ?_⟩, ⟨_, rfl, s.frame_skipIf _, ?_⟩,
    ⟨_, rfl, s.frame_skipIf _, ?_⟩⟩
  all_goals simp [State.skipIf_pc_toNat, bne]

end Sys2Proof.Machine
end

section
/-! PROOFS. The statements of 41_control_flow.md about jumps, calls and returns (R90 to R93), the jump to itself (R91,
R191) and the skips on keys (R98 to R100). -/

namespace Sys2Proof.Machine

/-! ## Jumps (R63, R91, R93) -/

theorem target_toNat (nnn : Addr12) : (target nnn).toNat = nnn.toNat :=
  BitVec.toNat_setWidth_of_le (by decide)

/-- The sum cannot wrap: it is at most 4095 + 255. -/
theorem State.indexedTarget_toNat (s : State) (nnn : Addr12) :
    (s.indexedTarget nnn).toNat = nnn.toNat + (s.reg 0).toNat := by
  have hx : ((s.reg 0).zeroExtend 16).toNat = (s.reg 0).toNat := BitVec.toNat_setWidth_of_le (by decide)
  rw [State.indexedTarget, BitVec.toNat_add, target_toNat, hx]
  omega

/-- Settles O18: the jump's target is the `pc` of before the fetch, so the jump undoes the fetch's advance. -/
theorem jumpToItselfChangesNothing : Obligations.JumpToItselfChangesNothing := by
  intro s nnn hhost hw hpc hd
  have hself : target nnn = s.pc := BitVec.eq_of_toNat_eq ((target_toNat nnn).trans hpc.symm)
  calc step s = stepOp s.keys s := step_of_nextOp (State.nextOp_of_nil hhost)
    _ = exec (.jp nnn) { s with pc := s.pc + 2 } := stepOp_running s.keys hw hd
    _ = .next (s.jump (target nnn)) := rfl
    _ = .next (s.jump s.pc) := by rw [hself]

/-- Settles O39: the zero-extension of R63 keeps the address as a number. -/
theorem jumpSetsPcToItsAddress : Obligations.JumpSetsPcToItsAddress :=
  fun s nnn => ⟨s.jump (target nnn), rfl, target_toNat nnn, s.frame_jump _⟩

/-- Settles O41: the sum is the number that `indexedTarget_toNat` gives. -/
theorem indexedJumpAddsRegisterZero : Obligations.IndexedJumpAddsRegisterZero :=
  fun s nnn => ⟨s.jump (s.indexedTarget nnn), rfl, s.indexedTarget_toNat nnn, s.frame_jump _⟩

/-! ## Return and call (R90, R92) -/

/-- Settles O38: `RET` jumps to what `Pop` takes, the top entry or 0. -/
theorem returnPopsIntoPc : Obligations.ReturnPopsIntoPc := by
  intro s
  refine ⟨s.pop.2.jump s.pop.1, rfl, fun k hk => ?_, fun h0 => ?_, s.pop_stk, exec_frame (i := .ret) rfl⟩
  · rw [State.pop_of_top k hk]
    exact ⟨rfl, rfl⟩
  · rw [State.pop_of_empty h0]
    exact ⟨rfl, h0⟩

/-- Settles O40: `CALL` jumps after `Push`, which writes the slot at `SP` or, on a full stack, nothing. -/
theorem callPushesPcAndJumps : Obligations.CallPushesPcAndJumps := by
  intro s nnn
  refine ⟨(s.push s.pc).jump (target nnn), rfl, target_toNat nnn, fun k hk => ?_, fun k hk => ?_, fun hfull => ?_,
    exec_frame (i := .call nnn) rfl⟩
  · rw [State.push_of_lt (hk ▸ k.isLt)]
    simp [hk]
  · obtain ⟨_, hp⟩ | ⟨_, hp⟩ := s.push_cases s.pc
    · simp [hp, hk]
    · rw [hp, State.jump_stk]
  · rw [State.push_of_full hfull, State.jump_sp]

/-! ## Skips on keys (R98 to R100) -/

theorem State.keyDown_of_key (s : State) {v : Byte} (k : Fin 16) (h : v.toNat = k.val) : s.keyDown v = s.keys[k] := by
  simp [State.keyDown, h]

/-- A code that names no key is a key that is up (D8). -/
theorem State.keyDown_of_no_key (s : State) {v : Byte} (h : 16 ≤ v.toNat) : s.keyDown v = false :=
  dif_neg (by omega)

/-- Settles O43: both are `skipIf` on the key's level. -/
theorem keySkipsTestTheKeyLevel : Obligations.KeySkipsTestTheKeyLevel := by
  intro s x
  refine ⟨⟨_, rfl, s.frame_skipIf _, fun k hk => ?_, fun h => ?_⟩,
    ⟨_, rfl, s.frame_skipIf _, fun k hk => ?_, fun h => ?_⟩⟩
  · rw [State.skipIf_pc_toNat, s.keyDown_of_key k hk]
  · rw [s.keyDown_of_no_key h, State.skipIf_pc]
    rfl
  · rw [State.skipIf_pc_toNat, s.keyDown_of_key k hk]
    cases s.keys[k] <;> rfl
  · rw [State.skipIf_pc_toNat, s.keyDown_of_no_key h]
    rfl

end Sys2Proof.Machine
end

section
/-! PROOFS. The statements of 42_arith_logic.md (R110 to R122). -/

namespace Sys2Proof.Machine

/-! ## The destination and the flag after a write -/

@[simp] theorem State.reg_setReg_same (s : State) (x : Reg) (v : Byte) : (s.setReg x v).reg x = v := by
  rw [State.reg_setReg, if_pos rfl]

theorem State.reg_setRegFlag_result (s : State) {x : Reg} (hx : x ≠ 15) (v : Byte) (b : Bool) :
    (s.setRegFlag x v b).reg x = v := by
  rw [State.reg_setRegFlag, if_neg hx, if_pos rfl]

/-- The flag is written last, so it is what remains also with `x` = 15 (D6). -/
theorem State.reg_setRegFlag_flag (s : State) (x : Reg) (v : Byte) (b : Bool) :
    (s.setRegFlag x v b).reg 15 = flagByte b := by
  rw [State.reg_setRegFlag, if_pos rfl]

@[simp] theorem State.reg_setRandom_same (s : State) (x : Reg) (r nn : Byte) :
    (s.setRandom x r nn).reg x = r &&& nn :=
  s.reg_setReg_same x (r &&& nn)

/-! ## The flag values as numbers (R12) -/

theorem flagByte_toNat (b : Bool) : (flagByte b).toNat = b.toNat := by
  cases b <;> rfl

theorem flagByte_carryOut_toNat (a b : Byte) :
    (flagByte (carryOut a b)).toNat = if a.toNat + b.toNat > 255 then 1 else 0 :=
  (flagByte_toNat _).trans (Bool.cond_decide _ 1 0)

theorem flagByte_noBorrow_toNat (a b : Byte) :
    (flagByte (noBorrow a b)).toNat = if a.toNat ≥ b.toNat then 1 else 0 :=
  (flagByte_toNat _).trans (Bool.cond_decide _ 1 0)

theorem flagByte_getLsbD_toNat (v : Byte) (k : Nat) : (flagByte (v.getLsbD k)).toNat = v.toNat / 2 ^ k % 2 :=
  (flagByte_toNat _).trans (Nat.toNat_testBit v.toNat k)

theorem flagByte_shiftedOutRight_toNat (v : Byte) : (flagByte (shiftedOutRight v)).toNat = v.toNat % 2 := by
  rw [shiftedOutRight, flagByte_getLsbD_toNat, Nat.pow_zero, Nat.div_one]

/-- Bit 7 is the top bit of a byte. -/
theorem flagByte_shiftedOutLeft_toNat (v : Byte) : (flagByte (shiftedOutLeft v)).toNat = v.toNat / 128 := by
  rw [shiftedOutLeft, flagByte_getLsbD_toNat]
  omega

/-! ## The results as numbers -/

theorem toNat_sub_eq_emod (a b : Byte) : ((a - b).toNat : Int) = ((a.toNat : Int) - b.toNat) % 256 := by
  rw [BitVec.toNat_sub]
  omega

theorem toNat_shiftRight_one (v : Byte) : (v >>> 1).toNat = v.toNat / 2 := by
  rw [BitVec.toNat_ushiftRight, Nat.shiftRight_one]

theorem toNat_shiftLeft_one (v : Byte) : (v <<< 1).toNat = v.toNat * 2 % 256 := by
  rw [BitVec.toNat_shiftLeft, Nat.shiftLeft_eq]

/-- `SHIFT_SRC` has two values (R3). -/
theorem State.shiftSource_eq (s : State) (x y : Reg) :
    s.shiftSource x y = if s.cfg.shiftSrc = .x then s.reg x else s.reg y := by
  rw [State.shiftSource]
  cases s.cfg.shiftSrc <;> rfl

/-! ## Without a flag (R111 to R116, R122) -/

/-- Settles O44: each of the three is one register write. -/
theorem loadAddAndMoveWriteTheirDestination : Obligations.LoadAddAndMoveWriteTheirDestination := by
  intro s x y nn
  refine ⟨⟨_, rfl, s.reg_setReg_same x nn, exec_frame (i := .ld x nn) rfl⟩,
    ⟨_, rfl, ?_, exec_frame (i := .add x nn) rfl⟩, ⟨_, rfl, s.reg_setReg_same x _, exec_frame (i := .mov x y) rfl⟩⟩
  rw [State.reg_setReg_same, BitVec.toNat_add]

/-- Settles O45: each of the three writes one register with the operation on bit vectors, which is bitwise. -/
theorem logicOperationsAreBitwise : Obligations.LogicOperationsAreBitwise := by
  intro s x y
  refine ⟨⟨_, rfl, exec_frame (i := .or x y) rfl, fun k => ?_⟩, ⟨_, rfl, exec_frame (i := .and x y) rfl, fun k => ?_⟩,
    ⟨_, rfl, exec_frame (i := .xor x y) rfl, fun k => ?_⟩⟩
  · rw [State.reg_setReg_same, BitVec.getLsbD_or]
  · rw [State.reg_setReg_same, BitVec.getLsbD_and]
  · rw [State.reg_setReg_same, BitVec.getLsbD_xor]

/-- Settles O49: the draw advances the counter, and the mask clears each bit that `NN` has clear. -/
theorem randomIsMaskedByTheImmediate : Obligations.RandomIsMaskedByTheImmediate := by
  intro s x nn
  have hx : (s.draw.2.setRandom x s.draw.1 nn).reg x = Config.rnd s.draws &&& nn := s.draw.2.reg_setRandom_same x _ nn
  refine ⟨_, rfl, hx, s.draw_draws, fun k hk => ?_, exec_frame (i := .rnd x nn) rfl⟩
  rw [hx, BitVec.getLsbD_and, hk, Bool.and_false]

/-! ## With the flag (R117 to R121) -/

/-- Settles O46: the sum goes to the destination, then the carry to the flag. -/
theorem addWithCarryWritesSumAndCarry : Obligations.AddWithCarryWritesSumAndCarry := by
  intro s x y
  refine ⟨_, rfl, fun hx => ?_, ?_, exec_frame (i := .addc x y) rfl⟩
  · rw [s.reg_setRegFlag_result hx, BitVec.toNat_add]
  · rw [s.reg_setRegFlag_flag, flagByte_carryOut_toNat]

/-- What `SUB` and `SUBN` write, with minuend `a` and subtrahend `b`. -/
theorem State.setRegFlag_difference (s : State) (x : Reg) (a b : Byte) :
    (x ≠ 15 →
      (((s.setRegFlag x (a - b) (noBorrow a b)).reg x).toNat : Int) = ((a.toNat : Int) - b.toNat) % 256) ∧
    ((s.setRegFlag x (a - b) (noBorrow a b)).reg 15).toNat = if a.toNat ≥ b.toNat then 1 else 0 := by
  refine ⟨fun hx => ?_, ?_⟩
  · rw [s.reg_setRegFlag_result hx, toNat_sub_eq_emod]
  · rw [s.reg_setRegFlag_flag, flagByte_noBorrow_toNat]

/-- Settles O47: the two differ in which operand is the minuend. -/
theorem subtractsWriteDifferenceAndNoBorrow : Obligations.SubtractsWriteDifferenceAndNoBorrow := by
  intro s x y
  obtain ⟨hsub, hsubFlag⟩ := s.setRegFlag_difference x (s.reg x) (s.reg y)
  obtain ⟨hsubn, hsubnFlag⟩ := s.setRegFlag_difference x (s.reg y) (s.reg x)
  exact ⟨⟨_, rfl, hsub, hsubFlag, exec_frame (i := .sub x y) rfl⟩,
    ⟨_, rfl, hsubn, hsubnFlag, exec_frame (i := .subn x y) rfl⟩⟩

/-- Settles O48: the stated source is the model's `shiftSource` for either value of `SHIFT_SRC` (D5). -/
theorem shiftsWriteResultAndBitShiftedOut : Obligations.ShiftsWriteResultAndBitShiftedOut := by
  intro s x y v hv
  obtain rfl : v = s.shiftSource x y := hv.trans (s.shiftSource_eq x y).symm
  refine ⟨⟨_, rfl, fun hx => ?_, ?_, exec_frame (i := .shr x y) rfl⟩,
    ⟨_, rfl, fun hx => ?_, ?_, exec_frame (i := .shl x y) rfl⟩⟩
  · rw [s.reg_setRegFlag_result hx, toNat_shiftRight_one]
  · rw [s.reg_setRegFlag_flag, flagByte_shiftedOutRight_toNat]
  · rw [s.reg_setRegFlag_result hx, toNat_shiftLeft_one]
  · rw [s.reg_setRegFlag_flag, flagByte_shiftedOutLeft_toNat]

end Sys2Proof.Machine
end

section
/-! PROOFS. The statements of 43_index_memory.md (R130 to R136). -/

namespace Sys2Proof.Machine

/-! ## The bulk store and load (R135, R136) -/

theorem State.readByte_writeSeq_other (s : State) {start a : Nat} {bytes : List Byte}
    (ha : a < start ∨ start + bytes.length ≤ a) : (s.writeSeq start bytes).readByte a = s.readByte a := by
  rw [State.readByte_writeSeq, dif_neg (by omega)]

/-- `STM` stores fifteen bytes whatever X is (C1, D11), so `I + 15` is not among them. -/
theorem exec_stm_readByte_other {x : Reg} {s t : State} (h : exec (.stm x) s = .next t) {a : Nat}
    (ha : a < s.base ∨ s.base + 15 ≤ a) : t.readByte a = s.readByte a := by
  obtain rfl := Host.Outcome.next.inj h
  exact s.readByte_writeSeq_other (by simpa using ha)

theorem exec_ldm_reg {x : Reg} {s t : State} (h : exec (.ldm x) s = .next t) {k : Reg} (hk : k.val ≤ x.val) :
    t.reg k = s.readByte (s.base + k.val) := by
  obtain rfl := Host.Outcome.next.inj h
  rw [State.reg_setRegs, dif_pos ⟨Nat.zero_le _, by simp; omega⟩, State.readSeq_getElem, Nat.sub_zero]

/-- `LDM` leaves the registers above X alone: the table of writes names only its destinations. -/
theorem exec_ldm_reg_above {x : Reg} {s t : State} (h : exec (.ldm x) s = .next t) {k : Reg} (hk : x.val < k.val) :
    t.reg k = s.reg k :=
  exec_reg h (by simpa [Instr.writes, Instr.destinations] using hk)

/-- Settles O52: the fifteen bytes land where they are in memory, and the write reaches no other. -/
theorem bulkStoreWritesFifteenRegisters : Obligations.BulkStoreWritesFifteenRegisters := by
  intro s x
  obtain ⟨t, ht⟩ := exists_exec (.stm x) s
  exact ⟨t, ht, fun _ hk hmem => exec_stm_readByte ht hk hmem, fun _ ha => exec_stm_readByte_other ht ha,
    exec_frame ht⟩

/-- Settles O53: a byte outside memory is one that `readByte` answers with 0. -/
theorem bulkLoadReadsUpToRegisterX : Obligations.BulkLoadReadsUpToRegisterX := by
  intro s x
  obtain ⟨t, ht⟩ := exists_exec (.ldm x) s
  exact ⟨t, ht, fun _ hk => exec_ldm_reg ht hk, fun _ hk => exec_ldm_reg_above ht hk, exec_frame ht⟩

/-- Settles O54: the store keeps `I`, so the load reads the fifteen bytes it wrote and then the one above them. -/
theorem storeThenLoadRestoresAllButTheFlag : Obligations.StoreThenLoadRestoresAllButTheFlag := by
  intro s x hmem
  obtain ⟨t, ht⟩ := exists_exec (.stm x) s
  obtain ⟨u, hu⟩ := exists_exec (.ldm 15) t
  have hbase : t.base = s.base := congrArg BitVec.toNat ((exec_frame ht).idx rfl)
  have hload (k : Reg) : u.reg k = t.readByte (s.base + k.val) := hbase ▸ exec_ldm_reg hu (Nat.le_of_lt_succ k.isLt)
  refine ⟨t, u, ht, hu, fun k hk => ?_, ?_⟩
  · have hk15 : k.val < 15 := Nat.lt_of_le_of_ne (Nat.le_of_lt_succ k.isLt) (Fin.val_ne_of_ne hk)
    exact (hload k).trans (exec_stm_readByte ht hk15 (by unfold memSize; omega))
  · exact (hload 15).trans (exec_stm_readByte_other ht (.inr (Nat.le_refl _)))

/-! ## The writers of `I` (R130, R131, R133) -/

theorem toNat_zeroExtend_word (v : Byte) : (v.zeroExtend 16).toNat = v.toNat :=
  BitVec.toNat_setWidth_of_le (by decide)

/-- Five times a byte is at most 1275, which fits in `I` without a mask (R133, D23). -/
theorem toNat_glyphOffset (v : Byte) : (BitVec.ofNat 16 (v.toNat * 5)).toNat = v.toNat * 5 := by
  rw [BitVec.toNat_ofNat]
  omega

/-- Settles O50: each of the three is one write of `I`, and only the sum of `ADDI` can wrap. -/
theorem indexWritersSetTheIndexRegister : Obligations.IndexWritersSetTheIndexRegister := by
  intro s x nnn
  refine ⟨⟨_, rfl, target_toNat nnn, exec_frame (i := .ldi nnn) rfl⟩, ⟨_, rfl, ?_, exec_frame (i := .addi x) rfl⟩,
    ⟨_, rfl, toNat_glyphOffset (s.reg x), exec_frame (i := .font x) rfl⟩⟩
  rw [State.setIdx_idx, BitVec.toNat_add, toNat_zeroExtend_word]

/-! ## The decimal digits (R134) -/

/-- Each digit of a byte is below 256, so a byte holds it. -/
theorem map_toNat_decimalDigits (v : Byte) :
    (decimalDigits v).map BitVec.toNat = [v.toNat / 100, v.toNat / 10 % 10, v.toNat % 10] := by
  simp only [decimalDigits, List.map_cons, List.map_nil, BitVec.toNat_ofNat, List.cons.injEq, and_true]
  omega

theorem exec_bcd_readByte {x : Reg} {s t : State} (h : exec (.bcd x) s = .next t) {k : Nat} (hk : k < 3)
    (hmem : s.base + k < memSize) :
    (t.readByte (s.base + k)).toNat = [(s.reg x).toNat / 100, (s.reg x).toNat / 10 % 10, (s.reg x).toNat % 10][k] := by
  obtain rfl := Host.Outcome.next.inj h
  calc _ = (decimalDigits (s.reg x))[k].toNat :=
        congrArg BitVec.toNat (s.readByte_writeSeq_landed s.base (decimalDigits (s.reg x)) hk hmem)
    _ = ((decimalDigits (s.reg x)).map BitVec.toNat)[k] := (List.getElem_map BitVec.toNat).symm
    _ = _ := by simp only [map_toNat_decimalDigits]

/-- Settles O51: `BCD` is one write of the three digits, most significant first. -/
theorem bcdStoresTheThreeDigits : Obligations.BcdStoresTheThreeDigits := by
  intro s x
  obtain ⟨t, ht⟩ := exists_exec (.bcd x) s
  refine ⟨t, ht, exec_bcd_readByte ht (k := 0) (by decide), exec_bcd_readByte ht (k := 1) (by decide),
    exec_bcd_readByte ht (k := 2) (by decide), fun a ha => ?_, exec_frame ht⟩
  obtain rfl := Host.Outcome.next.inj ht
  exact s.readByte_writeSeq_other ha

end Sys2Proof.Machine
end

section
/-! PROOFS. The statements of 44_display.md (R140 to R143). -/

namespace Sys2Proof.Machine

/-! ## One sprite (R142) -/

theorem flagByte_eq_one {b : Bool} : flagByte b = 1 ↔ b = true := by
  cases b <;> decide

section Draw

variable {x y : Reg} {n : Fin 16} {s t : State}

theorem exec_drw_cell_of_hits (h : exec (.drw x y n) s = .next t) {r c : Nat}
    (hit : s.hits (s.anchorX x) (s.anchorY y) n r c) : t.fb.cell r c = !s.fb.cell r c := by
  obtain rfl := Host.Outcome.next.inj h
  exact (s.drawRows_cell _ _ n (s.fb, false) r c).1 hit

theorem exec_drw_cell_of_not_hits (h : exec (.drw x y n) s = .next t) {r c : Nat}
    (hit : ¬s.hits (s.anchorX x) (s.anchorY y) n r c) : t.fb.cell r c = s.fb.cell r c := by
  obtain rfl := Host.Outcome.next.inj h
  exact (s.drawRows_cell _ _ n (s.fb, false) r c).2 hit

/-- The flag reports a cell under a set pixel that was on before the draw. -/
theorem exec_drw_flag_eq_one_iff (h : exec (.drw x y n) s = .next t) :
    t.reg 15 = 1 ↔ ∃ r c, s.hits (s.anchorX x) (s.anchorY y) n r c ∧ s.fb.cell r c = true := by
  obtain rfl := Host.Outcome.next.inj h
  rw [State.setFlag, State.reg_setReg_same, flagByte_eq_one, State.drawRows_hit]
  simp

theorem exec_drw_flag_eq_zero_or_one (h : exec (.drw x y n) s = .next t) : t.reg 15 = 0 ∨ t.reg 15 = 1 :=
  (flagIsWrittenByItsSixInstructionsOnly _ s t h).1 rfl

/-! ## The same sprite again (R143) -/

theorem State.hits_congr (hi : t.idx = s.idx) (hm : ∀ a, t.readByte a = s.readByte a) (x0 y0 n r c : Nat) :
    t.hits x0 y0 n r c ↔ s.hits x0 y0 n r c := by
  simp only [State.hits, State.covers, State.base, hi, hm]

/-- A draw whose anchor registers are not the flag leaves the sprite where it is: it keeps the anchor, `I` and
memory. -/
theorem exec_drw_hits (hx : x ≠ 15) (hy : y ≠ 15) (h : exec (.drw x y n) s = .next t) (r c : Nat) :
    t.hits (t.anchorX x) (t.anchorY y) n r c ↔ s.hits (s.anchorX x) (s.anchorY y) n r c := by
  have hf := exec_frame h
  have hregX : t.reg x = s.reg x := hf.regs x (by simpa [Instr.writes] using hx)
  have hregY : t.reg y = s.reg y := hf.regs y (by simpa [Instr.writes] using hy)
  rw [State.anchorX, State.anchorY, hregX, hregY]
  exact State.hits_congr (hf.idx rfl) (hf.mem rfl) _ _ n r c

end Draw

/-! ## The obligations -/

/-- Settles O56: `CLS` writes the blank display and nothing else. -/
theorem clearTurnsEveryCellOff : Obligations.ClearTurnsEveryCellOff :=
  fun s => ⟨s.setDisplay Display.blank, rfl, Display.cell_blank, exec_frame (i := .cls) rfl⟩

/-- Settles O57: the covered cells are those the draw hits, where the grid has them; the flag is 0 or 1, and 1 exactly
for a hit cell that was on. -/
theorem drawTogglesTheCoveredCells : Obligations.DrawTogglesTheCoveredCells := by
  rintro s x y n _ _ rfl rfl
  obtain ⟨t, ht⟩ := exists_exec (.drw x y n) s
  refine ⟨t, ht, fun r c hr hc hcov => ?_, fun r c hcov => ?_, fun ⟨r, c, hr, hc, hcov, hon⟩ => ?_, fun hoff => ?_,
    exec_frame ht⟩
  · exact exec_drw_cell_of_hits ht ⟨hr, hc, hcov⟩
  · exact exec_drw_cell_of_not_hits ht fun hit => hcov hit.2.2
  · exact (exec_drw_flag_eq_one_iff ht).mpr ⟨r, c, ⟨hr, hc, hcov⟩, hon⟩
  · refine (exec_drw_flag_eq_zero_or_one ht).resolve_right fun h1 => ?_
    obtain ⟨r, c, ⟨hr, hc, hcov⟩, hon⟩ := (exec_drw_flag_eq_one_iff ht).mp h1
    exact Bool.false_ne_true ((hoff r c hr hc hcov).symm.trans hon)

/-- Settles O58: both draws hit the same cells, so each of them is inverted twice, and the second draw meets one that
is on exactly where the first met one that was off. -/
theorem drawingTwiceRestoresTheDisplay : Obligations.DrawingTwiceRestoresTheDisplay := by
  intro s x y n hx hy
  obtain ⟨t, ht⟩ := exists_exec (.drw x y n) s
  obtain ⟨u, hu⟩ := exists_exec (.drw x y n) t
  have hits := exec_drw_hits hx hy ht
  refine ⟨t, u, ht, hu, Display.ext_cell fun r c _ _ => ?_, ?_, exec_drw_flag_eq_zero_or_one hu⟩
  · by_cases hit : s.hits (s.anchorX x) (s.anchorY y) n r c
    · calc u.fb.cell r c = !t.fb.cell r c := exec_drw_cell_of_hits hu ((hits r c).mpr hit)
        _ = !!s.fb.cell r c := congrArg (!·) (exec_drw_cell_of_hits ht hit)
        _ = s.fb.cell r c := Bool.not_not _
    · calc u.fb.cell r c = t.fb.cell r c := exec_drw_cell_of_not_hits hu (mt (hits r c).mp hit)
        _ = s.fb.cell r c := exec_drw_cell_of_not_hits ht hit
  · rw [exec_drw_flag_eq_one_iff hu]
    constructor
    · rintro ⟨r, c, hit, hon⟩
      have hit' := (hits r c).mp hit
      rw [exec_drw_cell_of_hits ht hit', Bool.not_eq_true'] at hon
      obtain ⟨hr, hc, hcov⟩ := hit'
      exact ⟨r, c, hr, hc, hcov, hon⟩
    · rintro ⟨r, c, hr, hc, hcov, hoff⟩
      have hit : s.hits (s.anchorX x) (s.anchorY y) n r c := ⟨hr, hc, hcov⟩
      exact ⟨r, c, (hits r c).mpr hit, by rw [exec_drw_cell_of_hits ht hit, hoff, Bool.not_false]⟩

end Sys2Proof.Machine
end

section
/-! PROOFS. The statements of 45_timer_key.md (R150 to R155). -/

namespace Sys2Proof.Machine

/-! ## The scan of the keys (R155) -/

theorem State.awaitStep_of_no_key {s : State} (h : ∀ k : Fin 16, s.keys[k] = false) (r : Reg) :
    s.awaitStep r = s := by
  obtain ⟨-, hstay⟩ | ⟨k, hk, -, -⟩ := s.awaitStep_cases r
  · exact hstay
  · exact absurd hk (Bool.eq_false_iff.mp (h k))

/-- The key that the scan takes and the lowest key down are one: neither is below the other. -/
theorem State.awaitStep_of_lowest_key {s : State} {k : Fin 16} (hk : s.keys[k] = true)
    (hlow : ∀ j, j < k → s.keys[j] = false) (r : Reg) :
    s.awaitStep r = (s.setReg r (BitVec.ofNat 8 k.val)).setWait .running := by
  obtain ⟨hnone, -⟩ | ⟨j, hj, hjlow, htake⟩ := s.awaitStep_cases r
  · exact absurd hk (Bool.eq_false_iff.mp (hnone k))
  · have hjk : ¬j < k := fun hlt => Bool.eq_false_iff.mp (hlow j hlt) hj
    have hkj : ¬k < j := fun hlt => Bool.eq_false_iff.mp (hjlow k hlt) hk
    obtain rfl : j = k := Fin.le_antisymm (not_lt.mp hkj) (not_lt.mp hjk)
    exact htake

theorem State.awaitStep_wait_of_key {s : State} {k : Fin 16} (hk : s.keys[k] = true) (r : Reg) :
    (s.awaitStep r).wait = .running := by
  obtain ⟨hnone, -⟩ | ⟨j, -, -, htake⟩ := s.awaitStep_cases r
  · exact absurd hk (Bool.eq_false_iff.mp (hnone k))
  · rw [htake, State.setWait_wait]

theorem State.frame_setReg_setWait (s : State) (r : Reg) (v : Byte) (w : Wait) :
    Frame { regs := [r], wait := true } s ((s.setReg r v).setWait w) := by
  constructor
  case regs =>
    intro q hq
    exact (s.reg_setReg r q v).trans (if_neg (by simpa using hq))
  case mem => exact fun _ _ => rfl
  all_goals simp

/-- Settles O16: the scan takes the lowest key, whose index fits in a byte. -/
theorem waitingStepTakesTheLowestKey : Obligations.WaitingStepTakesTheLowestKey := by
  intro s s0 keys r k hnext hw hk hlow
  have hstep : step s = .next (((s0.latchKeys keys).setReg r (BitVec.ofNat 8 k.val)).setWait .running) := by
    rw [step_of_nextOp hnext, applyOp, stepOp_waiting keys hw, State.awaitStep_of_lowest_key hk hlow]
  refine ⟨_, hstep, ?_, rfl, State.frame_setReg_setWait _ r _ _⟩
  calc _ = (BitVec.ofNat 8 k.val).toNat := congrArg BitVec.toNat (State.reg_setReg_same _ r _)
    _ = k.val := Nat.mod_eq_of_lt (by omega)

/-- Settles O17: a scan that finds no key leaves the state with the keys of this step as it is. -/
theorem waitingStepWithoutKeyChangesNothing : Obligations.WaitingStepWithoutKeyChangesNothing := by
  intro s s0 keys r hnext hw hnone
  calc step s = stepOp keys s0 := step_of_nextOp hnext
    _ = .next ((s0.latchKeys keys).awaitStep r) := stepOp_waiting keys hw
    _ = .next (s0.latchKeys keys) := congrArg _ (State.awaitStep_of_no_key hnone r)

/-! ## The transition table of the wait (R154) -/

theorem exec_ldk_wait {x : Reg} {s t : State} (h : exec (.ldk x) s = .next t) : t.wait = .awaitingKey x := by
  obtain rfl := Host.Outcome.next.inj h
  rfl

theorem writes_wait_eq_false {i : Instr} (h : ∀ x, i ≠ .ldk x) : i.writes.wait = false := by
  cases i
  case ldk x => exact absurd rfl (h x)
  all_goals rfl

/-- Any word but an `LDK`, recognised or not, leaves the wait state alone. -/
theorem execute_wait {op : Word} (hop : ∀ x, decode op ≠ .ok (.ldk x)) {s t : State} (h : execute op s = .next t) :
    t.wait = s.wait := by
  cases hd : decode op with
  | ok i =>
    rw [execute_ok hd] at h
    exact (exec_frame h).wait (writes_wait_eq_false fun x hi => hop x (hi ▸ hd))
  | error r =>
    rw [execute_error hd] at h
    cases h
    rfl

/-- The rows of the table for `step(keys)`. -/
theorem stepOp_wait {keys : KeyVector} {s t : State} (h : stepOp keys s = .next t) :
    (∀ x, s.wait = .running → decode s.fetchWord = .ok (.ldk x) → t.wait = .awaitingKey x) ∧
    (s.wait = .running → (∀ x, decode s.fetchWord ≠ .ok (.ldk x)) → t.wait = .running) ∧
    (∀ r, s.wait = .awaitingKey r → (∃ k : Fin 16, keys[k] = true) → t.wait = .running) ∧
    (∀ r, s.wait = .awaitingKey r → (∀ k : Fin 16, keys[k] = false) → t.wait = .awaitingKey r) := by
  refine ⟨fun x hw hd => ?_, fun hw hop => ?_, fun r hw ⟨k, hk⟩ => ?_, fun r hw hnone => ?_⟩
  · rw [stepOp_running keys hw hd] at h
    exact exec_ldk_wait h
  · rw [stepOp_execute keys hw] at h
    exact (execute_wait hop h).trans hw
  · rw [stepOp_waiting keys hw] at h
    cases h
    exact State.awaitStep_wait_of_key (s := s.latchKeys keys) hk r
  · rw [stepOp_waiting keys hw, State.awaitStep_of_no_key hnone] at h
    cases h
    exact hw

@[simp] theorem State.load_wait (s : State) (rom : List Byte) : (s.load rom).wait = s.wait := by simp [State.load]

@[simp] theorem State.tickOp_wait (s : State) : s.tickOp.wait = s.wait := rfl

@[simp] theorem State.resetOp_wait (s : State) : s.resetOp.wait = .running := rfl

theorem State.wait_of_nextOp {s s0 : State} {op : HostOp} (h : s.nextOp = (op, s0)) : s0.wait = s.wait := by
  obtain rfl : s.nextOp.2 = s0 := congrArg Prod.snd h
  rw [s.nextOp_state]

/-- Settles O15: taking an operation from the queue keeps the wait state, and each of the four operations has its rows
of the table. -/
theorem waitStateFollowsItsTransitionTable : Obligations.WaitStateFollowsItsTransitionTable := by
  intro s t h
  refine ⟨fun keys s0 hnext => ?_, fun s0 hnext => ?_, fun rom s0 hnext => ?_, fun s0 hnext => ?_⟩
  all_goals rw [step_of_nextOp hnext] at h
  · rw [← State.wait_of_nextOp hnext]
    exact stepOp_wait h
  · cases h
    rw [State.tickOp_wait, State.wait_of_nextOp hnext]
  · cases h
    rw [State.load_wait, State.wait_of_nextOp hnext]
  · cases h
    exact s0.resetOp_wait

/-! ## The timer moves and `LDK` (R150 to R153) -/

/-- Settles O59: each of the three is one write, and the table of writes names only its target. -/
theorem timerInstructionsMoveTheTimers : Obligations.TimerInstructionsMoveTheTimers := fun s x =>
  ⟨⟨s.setReg x s.dt, rfl, s.reg_setReg_same x s.dt, exec_frame (i := .lddt x) rfl⟩,
    ⟨s.setDt (s.reg x), rfl, rfl, exec_frame (i := .stdt x) rfl⟩,
    ⟨s.setSt (s.reg x), rfl, rfl, exec_frame (i := .stst x) rfl⟩⟩

/-- Settles O60: `LDK` writes only the wait state, and does not look at the keys. -/
theorem loadKeyOnlyEntersTheWait : Obligations.LoadKeyOnlyEntersTheWait :=
  fun s x => ⟨s.setWait (.awaitingKey x), rfl, rfl, exec_frame (i := .ldk x) rfl⟩

end Sys2Proof.Machine
end

section
/-! PROOFS. The statements of 60_exceptions.md about `tick_timers` (R167, R168, R172). -/

namespace Sys2Proof.Machine

/-! ## One tick -/

theorem State.tickOp_dt_toNat (s : State) : s.tickOp.dt.toNat = s.dt.toNat - 1 := tickDown_toNat s.dt

theorem State.tickOp_st_toNat (s : State) : s.tickOp.st.toNat = s.st.toNat - 1 := tickDown_toNat s.st

@[simp] theorem State.tickOp_soundOut (s : State) : s.tickOp.soundOut = some (decide (s.st.toNat > 0)) := rfl

/-- Beside the report, a tick writes the two timers and nothing else. -/
theorem State.frame_tickOp (s : State) :
    Frame { dt := true, st := true } s { s.tickOp with soundOut := s.soundOut } := by
  constructor
  case dt | st => exact nofun
  case regs | mem => exact fun _ _ => rfl
  case cfg | keys | soundOut | host => rfl
  all_goals exact fun _ => rfl

/-- Settles O32: the subtraction of naturals is the decrement with a floor at 0. -/
theorem tickDecrementsBothTimers : Obligations.TickDecrementsBothTimers := by
  have floor (n : Nat) : n - 1 = if n > 0 then n - 1 else 0 := by
    split <;> omega
  exact fun s => ⟨s.tickOp, rfl, s.tickOp_dt_toNat.trans (floor _), s.tickOp_st_toNat.trans (floor _),
    s.tickOp_soundOut, s.frame_tickOp⟩

/-! ## A run of ticks -/

/-- A timer that each tick takes down by 1 with a floor at 0 is down by `k` after `k` ticks, with the same floor. -/
theorem State.tickOp_iterate_toNat {timer : State → Byte} (htick : ∀ s, (timer s.tickOp).toNat = (timer s).toNat - 1)
    (s : State) (k : Nat) : (timer (State.tickOp^[k] s)).toNat = (timer s).toNat - k := by
  induction k with
  | zero => rfl
  | succ k ih => rw [Function.iterate_succ_apply', htick, ih, Nat.sub_sub]

/-- Tick `k + 1` finds in `ST` what `k` ticks have left, which is above 0 exactly when `k` is below the start. -/
theorem State.tickOp_iterate_succ_soundOut (s : State) (k : Nat) :
    (State.tickOp^[k + 1] s).soundOut = some (decide (k < s.st.toNat)) := by
  rw [Function.iterate_succ_apply', State.tickOp_soundOut,
    State.tickOp_iterate_toNat State.tickOp_st_toNat]
  simp only [gt_iff_lt, Nat.sub_pos_iff_lt]

/-- Settles O33, by induction on the number of ticks. -/
theorem timerRunsDownInExactlyItsCount : Obligations.TimerRunsDownInExactlyItsCount :=
  fun s k => ⟨s.tickOp_iterate_toNat State.tickOp_dt_toNat k, s.tickOp_iterate_toNat State.tickOp_st_toNat k,
    s.tickOp_iterate_succ_soundOut k⟩

end Sys2Proof.Machine
end

section
/-! PROOFS. The statements of 70_reset_and_hazards.md about `reset` at any time (R180) and about `load` with the fetch
after it (R181, R182, R184). -/

namespace Sys2Proof.Machine

/-- Settles O29: `reset` constructs the core from any state, and takes the other five fields from the state before. -/
theorem resetOperationReconstructsTheCore : Obligations.ResetOperationReconstructsTheCore := fun s =>
  ⟨s.resetOp, rfl, s.resetOp_constructed, s.resetOp_cfg, rfl, rfl, rfl, rfl⟩

/-! ## What a load leaves (R181) -/

@[simp] theorem State.load_pc (s : State) (rom : List Byte) : (s.load rom).pc = 0x0200 := rfl

/-- The load's jump does not touch memory. -/
@[simp] theorem State.readByte_load (s : State) (rom : List Byte) (a : Nat) :
    (s.load rom).readByte a = (s.writeSeq loadOffset rom).readByte a := rfl

theorem State.readByte_load_landed (s : State) (rom : List Byte) {k : Nat} (hk : k < rom.length)
    (hmem : loadOffset + k < memSize) : (s.load rom).readByte (loadOffset + k) = rom[k] := by
  rw [State.readByte_load, State.readByte_writeSeq_landed s loadOffset rom hk hmem]

theorem State.readByte_load_other (s : State) (rom : List Byte) {a : Nat}
    (ha : a < loadOffset ∨ loadOffset + rom.length ≤ a) : (s.load rom).readByte a = s.readByte a := by
  rw [State.readByte_load, State.readByte_writeSeq_other s ha]

/-- The frame of the writes, with `pc` given up to the jump. -/
theorem State.frame_load (s : State) (rom : List Byte) : Frame { pc := true, mem := true } s (s.load rom) :=
  { s.frame_writeSeq loadOffset rom with pc := nofun }

/-- Settles O30: `load` is a sequence of writes from 0x200 and a jump there. -/
theorem loadCopiesTheImageAndSetsPc : Obligations.LoadCopiesTheImageAndSetsPc := fun s rom =>
  ⟨s.load rom, rfl, s.load_pc rom, fun _ hk hmem => s.readByte_load_landed rom hk hmem,
    fun _ ha => s.readByte_load_other rom ha, s.frame_load rom⟩

/-! ## The first fetch after a load (R182, R184) -/

/-- Settles O31: `pc` is where the first byte has landed, and both addresses lie in memory. -/
theorem loadedImageIsFetchedFirst : Obligations.LoadedImageIsFetchedFirst := by
  intro s b0 b1 rest
  have hhi : (s.load (b0 :: b1 :: rest)).readByte 0x200 = b0 :=
    s.readByte_load_landed _ (k := 0) (by simp) (by decide)
  have hlo : (s.load (b0 :: b1 :: rest)).readByte 0x201 = b1 :=
    s.readByte_load_landed _ (k := 1) (by simp) (by decide)
  have hpc : (s.load (b0 :: b1 :: rest)).pc.toNat = 0x200 := congrArg BitVec.toNat (s.load_pc _)
  refine ⟨s.load (b0 :: b1 :: rest), rfl, ?_⟩
  rw [State.fetch, State.fetchWord_toNat, hpc, hhi, hlo]

end Sys2Proof.Machine
end
